-- ==== Sys2Proof/Word.lean ====
section
/-! DEFINITION. The words of the block and the form in which a host access reaches it.
spec/00_scope.md R7, R9; spec/30_encoding.md R90, R97. -/

namespace Sys2Proof

/-- A channel byte or a payload byte (`BYTEW` = 8, R7). -/
abbrev Byte := BitVec 8

/-- A CSR as the host sees it, and a command word (`XLEN` = 64, R7, R90). -/
abbrev XWord := BitVec 64

/-- One host access to the register interface in encoded form. A command word is what the line
`CMD mnemonic` of R99 writes to CMD; the two register accesses have no bit pattern of their own,
"their encoding is the register number" (R97), and travel as number and value. -/
inductive HostWord where
  /-- the 64-bit word presented at the command port (format CMDW, R90) -/
  | cmd (c : XWord)
  /-- a read of register number `n` (format HOSTREG, R97) -/
  | read (n : Nat)
  /-- a write of `value` to register number `n` (format HOSTREG, R97) -/
  | write (n : Nat) (value : XWord)
  deriving DecidableEq, Repr

end Sys2Proof
end

