-- ==== Sys2Proof/Config.lean ====
section
/-! DEFINITION. The parameters of the block, spec/00_scope.md R7. Those with one value are constants
here or widths in the types (`HW` = `WW` = 16, `CW` = 8, `FW` = `PAYAW` = 40, `SLOTW` = 43); the three
the spec leaves to the machine are fields of `Config`. -/

namespace Sys2Proof

/-- `MP_PRECHECK_SLOTS` (R7): what the Multi-Plane encode pre-check compares against. -/
inductive PrecheckSlots where
  /-- `PS = 8*F`, the hardware specified -/
  | sweep
  /-- `PS = F`, the literal text of the source -/
  | plane0
  deriving DecidableEq, Repr

/-- The parameters that may differ between two machines (R7, log 1). No step changes them. -/
structure Config where
  /-- `MP_PRECHECK_SLOTS`, decision D6 -/
  mpPrecheckSlots : PrecheckSlots
  /-- `PIX_SIZE`, bytes of PIX the platform backs, decision D25 -/
  pixSize : Nat
  /-- `PAY_SIZE`, bytes of PAY the platform backs, decision D25 -/
  paySize : Nat
  deriving DecidableEq, Repr

/-- The size of the PIX space and of the PAY space: addresses of `FW` = `PAYAW` = 40 bits (R7, R60). -/
def addressSpace : Nat := 2 ^ 40

/-- The hardware specified: the pre-check against the whole sweep (R7), and both spaces backed whole
(DESIGN CHOICE, log 1). -/
def Config.standard : Config :=
  { mpPrecheckSlots := .sweep, pixSize := addressSpace, paySize := addressSpace }

/-- The value of the ID register (spec/10_state.md R23). -/
def idValue : XWord := 0x0001_0007_4C53_4250#64

end Sys2Proof
end

