-- ==== Sys2Proof/Machine/State.lean ====
section
/-! DEFINITION. The state of the machine, as plain data. spec/10_state.md R20 to R46,
spec/20_memory.md R60, spec/70_reset_and_hazards.md R260. -/

namespace Sys2Proof.Machine

/-- `VARL` and the variant bit of a command: Plane-0 or Multi-Plane (R3, R25). -/
inductive Variant where
  | p0
  | mp
  deriving DecidableEq, Repr

/-- `OPL`: the operation of the last accepted CAP, ENC or DEC (R25). -/
inductive Operation where
  /-- none since reset -/
  | none
  | cap
  | enc
  | dec
  deriving DecidableEq, Repr

/-- `PHASE` (R25, R41). The code 3 never occurs. -/
inductive Phase where
  | idle
  | hdr
  | body
  deriving DecidableEq, Repr

/-- `CAUSE` (R27, R230). The codes 5 to 15 never occur. -/
inductive Cause where
  | none
  | capacityError
  | capacityExhausted
  | formatError
  | illegalCommand
  deriving DecidableEq, Repr

/-- The fields of the STATUS register (R25). -/
structure Status where
  busy : Bool
  done : Bool
  fault : Bool
  nodata : Bool
  capneg : Bool
  phase : Phase
  opl : Operation
  varl : Variant
  deriving DecidableEq, Repr

/-- Contents of PIX or PAY: address and byte, in the canonical form of `Memory.wf`. -/
abbrev Memory := List Host.Cell

/-- What an address that is not listed reads as (DESIGN CHOICE, log 5). -/
abbrev unlisted : Byte := 0#8

/-- One pending turn of the host, the core or the platform (spec/44_system_commands.md R200, log 3).
The loads, fills and unloads are those of R99, `wait` is the pseudo-instruction WAIT of R100. -/
inductive Turn where
  /-- a host access to the register interface -/
  | access (w : HostWord)
  /-- the core may take one core step -/
  | core
  /-- LDPIX: the host stores bytes into PIX from `offset` on -/
  | loadPix (offset : Nat) (bytes : List Byte)
  /-- FILLPIX: the host stores `count` copies of `byte` into PIX from `offset` on -/
  | fillPix (offset count : Nat) (byte : Byte)
  /-- LDPAY: the host stores bytes into PAY from `index` on -/
  | loadPay (index : Nat) (bytes : List Byte)
  /-- RDPIX: the host reads `count` bytes of PIX -/
  | readPix (offset count : Nat)
  /-- RDPAY: the host reads `count` bytes of PAY -/
  | readPay (index count : Nat)
  /-- WAIT: poll STATUS until BUSY reads 0 -/
  | wait
  /-- the platform's reset; the contents both memories have after it (R261: arbitrary) -/
  | reset (pix pay : List Host.Cell)
  deriving DecidableEq, Repr

/-- The state of the block (R20), and the model's own fields after it. -/
structure State where
  /-- STATUS, R25 -/
  status : Status
  /-- CAUSE, R27 -/
  cause : Cause
  /-- FINFO, R28 -/
  finfo : XWord
  /-- HEIGHT, R29 -/
  height : BitVec 16
  /-- WIDTH, R29 -/
  width : BitVec 16
  /-- CHANNELS, R29 -/
  channels : BitVec 8
  /-- PLEN, R30 -/
  plen : XWord
  /-- RLEN, R31 -/
  rlen : XWord
  /-- LENREG, read as HDRLEN, R32 -/
  lenreg : XWord
  /-- CAPBYTES, R33 -/
  capbytes : XWord
  /-- CUR_ROW, R34 -/
  curRow : BitVec 16
  /-- CUR_COL, R34 -/
  curCol : BitVec 16
  /-- CUR_CH, R34 -/
  curCh : BitVec 8
  /-- `plane_index`, the state of PLANE, R35 -/
  planeIndex : BitVec 3
  /-- SLOT, R36 -/
  slot : BitVec 43
  /-- SHREG, R37 -/
  shreg : Byte
  /-- PIX, R61 -/
  pix : Memory
  /-- PAY, R64 -/
  pay : Memory
  /-- the parameters, not state: no step changes them (log 1) -/
  cfg : Config
  /-- the pending turns, oldest first (log 3) -/
  turns : List Turn
  /-- the host's side: the value the last CSRR returned (log 4) -/
  hostValue : XWord
  /-- the host's side: the bytes the last unload returned (log 4) -/
  hostBytes : List Byte
  deriving DecidableEq, Repr

/-- STATUS after reset (R25, R260). -/
def Status.reset : Status :=
  { busy := false, done := false, fault := false, nodata := false, capneg := false,
    phase := .idle, opl := .none, varl := .p0 }

/-- The machine right after reset (R45, R260): every register at its reset value. The memories'
contents are unspecified by the spec; here nothing is listed (log 5). Nothing is pending. -/
def State.reset : State :=
  { status := Status.reset, cause := .none, finfo := 0, height := 0, width := 0, channels := 0,
    plen := 0, rlen := 0, lenreg := 0, capbytes := 0, curRow := 0, curCol := 0, curCh := 0,
    planeIndex := 0, slot := 0, shreg := 0, pix := [], pay := [], cfg := Config.standard,
    turns := [], hostValue := 0, hostBytes := [] }

/-- Why a step has no successor. These are the model's stops, not the block's fault causes: a fault
cause of the block is taken (`raise`) and gives a next state. -/
inductive Fault where
  /-- An access of PIX at an address the platform does not back, raised by a core step and by a host
  load or unload: the step is `stuck` (spec/20_memory.md R73, D25). Safe: the model stops. -/
  | pixNotBacked (address : Nat)
  /-- The same for PAY. Safe: the model stops. -/
  | payNotBacked (address : Nat)
  /-- A core step in a state with BUSY = 1 in which PHASE, SLOT and OPL do not belong together
  (spec/10_state.md R26, R41 rule it out), raised by `coreStep` only. Safe: no run reaches it and the
  model stops (log 8). -/
  | incoherent
  deriving DecidableEq, Repr

/-- Why the model makes no such move. -/
inductive Refusal where
  /-- An instruction without a meaning, by its mnemonic, raised by `exec` only. Safe: the model stops. -/
  | notModelled (mnemonic : String)
  /-- A host load or unload of PIX or PAY while BUSY = 1, raised by `takeTurn` only: "A model gives the
  host no such move" (spec/20_memory.md R80). Unsafe if the host breaks its duty (log 7). -/
  | hostMemoryWhileBusy
  deriving DecidableEq, Repr

/-- What the access of one slot answers (R140): the bit and the state after it, or the state in which
`AdvanceCursor` raised `CapacityExhausted`, or no successor. -/
inductive SlotResult where
  | bit (b : Bool) (s : State)
  | exhausted (s : State)
  | stuck (r : Fault)
  deriving DecidableEq, Repr

end Sys2Proof.Machine
end

