-- ==== Sys2Proof/Machine/Operands.lean ====
section
/-! DEFINITION. Operands and derived quantities: the flat length and the capacities, effective
addresses, the mask table, the framer and the serialiser. All of them are exact naturals or
integers: "no rule lets them wrap" (spec/00_scope.md R8). -/

namespace Sys2Proof.Machine

/-- `F = H*W*C` (R8). -/
def flatLength (s : State) : Nat := s.height.toNat * s.width.toNat * s.channels.toNat

/-- `maxP0 = floor(F/8) - 8`, signed (R8). -/
def maxP0 (s : State) : Int := (flatLength s / 8 : Nat) - 8

/-- `SWEEP = 8*F` (R8). -/
def sweepSlots (s : State) : Nat := 8 * flatLength s

/-- `PS` (R8): what the Multi-Plane pre-check compares against. -/
def precheckSlots (s : State) : Nat :=
  match s.cfg.mpPrecheckSlots with
  | .sweep => sweepSlots s
  | .plane0 => flatLength s

/-- The unclamped capacity of CAP.P0 (R161). -/
def capacityP0 (s : State) : Int := maxP0 s

/-- The unclamped capacity of CAP.MP (R181): `min(floor(PS/8) - 8, F - 9)`. -/
def capacityMp (s : State) : Int :=
  min ((precheckSlots s / 8 : Nat) - 8 : Int) ((flatLength s : Int) - 9)

/-- `numBits = 64 + 8*L`, the slots a payload of `L` bytes needs (spec/40_framer_shifter.md R120). -/
def frameSlots (len : Nat) : Nat := 64 + 8 * len

/-- `EA(row, col, channel) = (row*W + col)*C + channel` (spec/20_memory.md R63). -/
def pixelOffset (s : State) (row col ch : Nat) : Nat :=
  (row * s.width.toNat + col) * s.channels.toNat + ch

/-- The effective address in cursor mode (spec/41_sequencer_cursor.md R131). -/
def cursorAddress (s : State) : Nat := pixelOffset s s.curRow.toNat s.curCol.toNat s.curCh.toNat

/-- The effective address in flat mode (R132). -/
def flatAddress (s : State) : Nat := s.slot.toNat

/-- The effective address of the slot a core step accesses, by the variant (R131, R132). -/
def slotAddress (s : State) : Nat :=
  match s.status.varl with
  | .p0 => flatAddress s
  | .mp => cursorAddress s

/-- The mask table (spec/10_state.md R38): eight entries, a constant. -/
def masks : List Byte := [1, 2, 4, 8, 16, 32, 64, 128]

/-- `MASK_ONE = MASKS[plane_index]` (R39). -/
def maskOne (p : BitVec 3) : Byte := masks.getD p.toNat 0

/-- `MASK_ZERO = (~MASK_ONE) & 0xFF` (R39). -/
def maskZero (p : BitVec 3) : Byte := ~~~(maskOne p) &&& 0xFF#8

/-- A bit as a number of `w` bits. -/
def bitWord (w : Nat) (b : Bool) : BitVec w := (BitVec.ofBool b).setWidth w

/-- A byte with bit 0 replaced (R133): `(v & 0xFE) | b`. -/
def withBit0 (v : Byte) (b : Bool) : Byte := (v &&& 0xFE#8) ||| bitWord 8 b

/-- A byte with the bit of plane `p` set or cleared through the masks (R135). -/
def withPlaneBit (p : BitVec 3) (v : Byte) (b : Bool) : Byte :=
  if b then v ||| maskOne p else v &&& maskZero p

/-- The bit of plane `p` of a byte, read through the mask (R136). -/
def planeBit (p : BitVec 3) (v : Byte) : Bool := (v &&& maskOne p) != 0#8

/-- The check of `Frame64` (spec/40_framer_shifter.md R111): the information of the `FormatError` a
length that does not fit 64 bits raises. -/
def frame64Check (v : Nat) : Option XWord :=
  if v < 2 ^ 64 then none else some (BitVec.ofNat 64 v)

/-- Bit `i` of `Frame64(v)`: `b_i = v[63 - i]` (R111). -/
def frame64Bit (v : XWord) (i : Nat) : Bool := v.getLsbD (63 - i)

/-- `Frame64(v)` of a value that fits (R111): 64 bits, most significant first. -/
def frame64 (v : XWord) : List Bool := (List.range 64).map (frame64Bit v)

/-- One shift of a deserialiser: `(x << 1) | b`, the new bit at bit 0 (R113, R118). -/
def shiftIn {w : Nat} (x : BitVec w) (b : Bool) : BitVec w := (x <<< 1) ||| bitWord w b

/-- `Deser64` as a whole (R113): the bits shifted into a cleared LENREG one after another. -/
def deser64 (bits : List Bool) : XWord := bits.foldl shiftIn 0#64

/-- Bit `j` of `Ser8(v)`: `b_j = v[7 - j]` (R114). -/
def ser8Bit (v : Byte) (j : Nat) : Bool := v.getLsbD (7 - j)

/-- `Ser8(v)` (R114): 8 bits, most significant first. -/
def ser8 (v : Byte) : List Bool := (List.range 8).map (ser8Bit v)

/-- `Pack8` (R115): `v = sum over j of b_j * 2^(7-j)`. -/
def pack8 (b0 b1 b2 b3 b4 b5 b6 b7 : Bool) : Byte :=
  BitVec.ofNat 8 (128 * b0.toNat + 64 * b1.toNat + 32 * b2.toNat + 16 * b3.toNat + 8 * b4.toNat
    + 4 * b5.toNat + 2 * b6.toNat + b7.toNat)

/-- `k = (SLOT - 64) div 8`, the payload byte of a body slot (spec/10_state.md R41). -/
def bodyByte (slot : Nat) : Nat := (slot - 64) / 8

/-- `j = (SLOT - 64) mod 8`, the bit position in it from the most significant bit (R41). -/
def bodyBit (slot : Nat) : Nat := (slot - 64) % 8

end Sys2Proof.Machine
end

