-- ==== Sys2Proof/Machine/Flags.lean ====
section
/-! DEFINITION. Flags and register views: the codes and the STATUS and PLANE words
(spec/10_state.md R25, R35, R98), the flag column of every command (R40), and the read and write
of one CSR by number (R21, R22). -/

namespace Sys2Proof.Machine

/-- The code of PHASE (spec/30_encoding.md R98). -/
def Phase.code : Phase → BitVec 2
  | .idle => 0
  | .hdr => 1
  | .body => 2

/-- The code of OPL (R98). -/
def Operation.code : Operation → BitVec 2
  | .none => 0
  | .cap => 1
  | .enc => 2
  | .dec => 3

/-- The code of VARL (R98). -/
def Variant.code : Variant → BitVec 1
  | .p0 => 0
  | .mp => 1

/-- The code of CAUSE (R98, R230). -/
def Cause.code : Cause → BitVec 4
  | .none => 0
  | .capacityError => 1
  | .capacityExhausted => 2
  | .formatError => 3
  | .illegalCommand => 4

/-- STATUS, bit 14 down to bit 0 (R25). -/
def statusBits (st : Status) : BitVec 15 :=
  st.varl.code ++ st.opl.code ++ 0#2 ++ st.phase.code ++ 0#3 ++ BitVec.ofBool st.capneg
    ++ BitVec.ofBool st.nodata ++ BitVec.ofBool st.fault ++ BitVec.ofBool st.done
    ++ BitVec.ofBool st.busy

/-- STATUS as the host reads it. -/
def statusWord (st : Status) : XWord := (statusBits st).setWidth 64

/-- PLANE as the host reads it (R35): `MASK_ZERO`, `MASK_ONE`, five zeros, `plane_index`. -/
def planeWord (p : BitVec 3) : XWord := (maskZero p ++ maskOne p ++ 0#5 ++ p).setWidth 64

/-- The value of CSR number `n` (R21, R201): zero-extended; 0 for CMD and for a reserved number. -/
def csrRead (s : State) (n : Nat) : XWord :=
  match n with
  | 0 => idValue
  | 1 => 0
  | 2 => statusWord s.status
  | 3 => s.cause.code.setWidth 64
  | 4 => s.finfo
  | 5 => s.height.setWidth 64
  | 6 => s.width.setWidth 64
  | 7 => s.channels.setWidth 64
  | 8 => s.plen
  | 9 => s.rlen
  | 10 => s.lenreg
  | 11 => s.capbytes
  | 12 => s.curRow.setWidth 64
  | 13 => s.curCol.setWidth 64
  | 14 => s.curCh.setWidth 64
  | 15 => planeWord s.planeIndex
  | 16 => s.slot.setWidth 64
  | 17 => s.shreg.setWidth 64
  | _ => 0

/-- A write of a register that only stores (R202): the low bits of the value into HEIGHT, WIDTH,
CHANNELS or PLEN; nothing for a read-only or a reserved number (R22 (a), (c)). CMD is not here. -/
def csrStore (s : State) (n : Nat) (value : XWord) : State :=
  match n with
  | 5 => { s with height := value.setWidth 16 }
  | 6 => { s with width := value.setWidth 16 }
  | 7 => { s with channels := value.setWidth 8 }
  | 8 => { s with plen := value }
  | _ => s

/-- The CAP row of R40, and OPL and VARL: DONE 1, NODATA 0, CAPNEG by the unclamped capacity. -/
def Status.afterCap (st : Status) (var : Variant) (cap : Int) : Status :=
  { st with done := true, nodata := false, capneg := decide (cap < 0), opl := .cap, varl := var }

/-- The latch of START (spec/44_system_commands.md R207 part 1): OPL, VARL; DONE and NODATA 0. -/
def Status.latched (st : Status) (op : Operation) (var : Variant) : Status :=
  { st with opl := op, varl := var, done := false, nodata := false }

/-- The go of START (R207 part 3): PHASE `HDR`, BUSY 1. -/
def Status.started (st : Status) : Status := { st with phase := .hdr, busy := true }

/-- The completion row of R40 (R209): PHASE `IDLE`, BUSY 0, DONE 1. -/
def Status.completed (st : Status) : Status := { st with phase := .idle, busy := false, done := true }

/-- The fault entry row of R40 (spec/60_exceptions.md R236). -/
def Status.faulted (st : Status) : Status :=
  { st with busy := false, phase := .idle, done := false, nodata := false, fault := true }

/-- The CLR row of R40 (R205). -/
def Status.cleared (st : Status) : Status :=
  { st with done := false, fault := false, nodata := false, capneg := false }

end Sys2Proof.Machine
end

