-- ==== Sys2Proof/Machine/Ops.lean ====
section
/-! DEFINITION. The operations the meanings share: the two memories, fault entry and the return from
it, the command port, START and completion. -/

namespace Sys2Proof.Machine

/-- The canonical form of a memory: addresses strictly rising and inside the space, and no entry that
an unlisted address would read as. -/
abbrev Memory.wf (m : Memory) : Prop :=
  m.Pairwise (fun x y => x.1 < y.1) ∧ ∀ c ∈ m, c.1 < addressSpace ∧ c.2 ≠ unlisted

/-- The byte at an address. -/
def Memory.read : Memory → Nat → Byte
  | [], _ => unlisted
  | c :: m, a => if c.1 = a then c.2 else Memory.read m a

/-- Put a byte in front unless an unlisted address reads as that byte. -/
def Memory.put (a : Nat) (v : Byte) (m : Memory) : Memory :=
  if v = unlisted then m else (a, v) :: m

/-- Write one byte, keeping the canonical form. -/
def Memory.write : Memory → Nat → Byte → Memory
  | [], a, v => Memory.put a v []
  | c :: m, a, v =>
    if c.1 < a then c :: Memory.write m a v
    else if c.1 = a then Memory.put a v m
    else Memory.put a v (c :: m)

/-- Write bytes at rising addresses from `a` on (R99, LDPIX and LDPAY). -/
def Memory.writeBytes (m : Memory) (a : Nat) : List Byte → Memory
  | [] => m
  | v :: vs => Memory.writeBytes (Memory.write m a v) (a + 1) vs

/-- Read `count` bytes from `a` on (R99, RDPIX and RDPAY). -/
def Memory.readBytes (m : Memory) (a count : Nat) : List Byte :=
  (List.range count).map (fun i => Memory.read m (a + i))

/-- The canonical memory with the contents a list of cells spells; a cell outside the space names no
location (R60). -/
def Memory.ofCells : List Host.Cell → Memory
  | [] => []
  | c :: cells =>
    if c.1 < addressSpace then Memory.write (Memory.ofCells cells) c.1 c.2 else Memory.ofCells cells

/-- `count` bytes from `a` on are backed (spec/20_memory.md R73): inside the `size` bytes the platform
backs and inside the space of 40 bits. -/
def backed (size a count : Nat) : Bool := count = 0 || (a + count ≤ size && a + count ≤ addressSpace)

/-- `PixRead(a)` (spec/20_memory.md R69). -/
def pixRead (s : State) (a : Nat) : Except Fault Byte :=
  if backed s.cfg.pixSize a 1 then .ok (s.pix.read a) else .error (.pixNotBacked a)

/-- `PixWrite(a, v)` (R69). -/
def pixWrite (s : State) (a : Nat) (v : Byte) : Except Fault State :=
  if backed s.cfg.pixSize a 1 then .ok { s with pix := s.pix.write a v } else .error (.pixNotBacked a)

/-- `PayRead(i)` (R69). -/
def payRead (s : State) (i : Nat) : Except Fault Byte :=
  if backed s.cfg.paySize i 1 then .ok (s.pay.read i) else .error (.payNotBacked i)

/-- `PayWrite(i, v)` (R69). -/
def payWrite (s : State) (i : Nat) (v : Byte) : Except Fault State :=
  if backed s.cfg.paySize i 1 then .ok { s with pay := s.pay.write i v } else .error (.payNotBacked i)

/-- Fault entry, `raise X(info)` (spec/60_exceptions.md R236). Everything else is left as the raising
step left it. -/
def raise (x : Cause) (info : XWord) (s : State) : State :=
  { s with status := s.status.faulted, cause := x, finfo := info, rlen := 0 }

/-- The return from a fault, CLR (R205, R238): the flags and the fault record cleared. -/
def clearRecord (s : State) : State :=
  { s with status := s.status.cleared, cause := .none, finfo := 0 }

/-- Completion (R209). -/
def complete (s : State) : State := { s with status := s.status.completed }

/-- How the command port looks at a command word (spec/30_encoding.md R95): ignored while BUSY; ignored
while FAULT unless the command is accepted then (NOP and CLR); else it has its effect. -/
def commandPort (whileFaulted : Bool) (effect : State → State) (s : State) :
    Host.Outcome State Fault Refusal :=
  if s.status.busy then .next s
  else if s.status.fault && !whileFaulted then .next s
  else .next (effect s)

/-- A capacity command (R161, R181, R206): CAPBYTES clamped at 0, and the flags. -/
def capacity (var : Variant) (cap : Int) (s : State) : State :=
  { s with capbytes := BitVec.ofNat 64 cap.toNat, status := s.status.afterCap var cap }

/-- START part 1 (spec/44_system_commands.md R207): latch, and the state of a fresh codec. -/
def startReset (op : Operation) (var : Variant) (s : State) : State :=
  { s with
    status := s.status.latched op var
    curRow := 0, curCol := 0, curCh := 0, planeIndex := 0
    slot := 0, shreg := 0, lenreg := 0, rlen := 0 }

/-- The construct check of the Plane-0 codec (spec/42_plane0_codec.md R160). -/
def constructFails (s : State) : Bool := maxP0 s < 0

/-- The encode precondition of the Plane-0 codec (R162). -/
def encodeP0Fails (s : State) : Bool := flatLength s < frameSlots s.plen.toNat

/-- The encode pre-check of the Multi-Plane codec (spec/43_multiplane_codec.md R182). -/
def encodeMpFails (s : State) : Bool := precheckSlots s < frameSlots s.plen.toNat

/-- The zero-size guard of DEC.MP (R188). -/
def zeroSize (s : State) : Bool := flatLength s = 0

/-- The framer's check of START of an encode (R207, R111): `FormatError` for a length of 2^64 or more. -/
def framerCheck (op : Operation) (s : State) : Option (Cause × XWord) :=
  match op with
  | .enc => (frame64Check s.plen.toNat).map (fun info => (.formatError, info))
  | .none | .cap | .dec => none

/-- START part 2 (R207): the first check that fails, in the order of R207 and R240, with the cause and
the information it raises. -/
def startCheck (op : Operation) (var : Variant) (s : State) : Option (Cause × XWord) :=
  let info : XWord := BitVec.ofNat 64 (flatLength s)
  match var, op with
  | .p0, .enc =>
    if constructFails s then some (.capacityError, info)
    else if encodeP0Fails s then some (.capacityError, info)
    else framerCheck .enc s
  | .p0, .dec => if constructFails s then some (.capacityError, info) else none
  | .mp, .enc => if encodeMpFails s then some (.capacityError, info) else framerCheck .enc s
  | .mp, .dec => if zeroSize s then some (.capacityError, 0) else none
  | _, .none => none
  | _, .cap => none

/-- START part 3 (R207): LENREG from PLEN on an encode, and go. -/
def startGo (op : Operation) (s : State) : State :=
  { s with
    lenreg := if op = .enc then s.plen else s.lenreg
    status := s.status.started }

/-- `START(op, var)` (R207). Part 1 happens even when part 2 faults. -/
def start (op : Operation) (var : Variant) (s : State) : State :=
  let s1 := startReset op var s
  match startCheck op var s1 with
  | some (x, info) => raise x info s1
  | none => startGo op s1

/-- The return of the whole block to its reset state (spec/70_reset_and_hazards.md R260). The memories
take the contents the platform leaves (R261: arbitrary); the parameters, the pending turns and the
host's side are not the block's (log 17). -/
def resetBlock (pix pay : List Host.Cell) (s : State) : State :=
  { State.reset with
    pix := Memory.ofCells pix, pay := Memory.ofCells pay
    cfg := s.cfg, turns := s.turns, hostValue := s.hostValue, hostBytes := s.hostBytes }

end Sys2Proof.Machine
end

