-- ==== Sys2Proof/Machine/Sequencer.lean ====
section
/-! DEFINITION. The channel-byte sequencer and the bit-plane cursor, spec/41_sequencer_cursor.md, and
the register transfers of the framer and the shifter, spec/40_framer_shifter.md. -/

namespace Sys2Proof.Machine

/-- `x[SLOT] <- x[SLOT] + 1` (R140 (3)). -/
def nextSlot (s : State) : State := { s with slot := s.slot + 1 }

/-- `AdvanceCursor()` (R138): the state after it, and whether step 4 raised `CapacityExhausted`. The
comparisons are those of integers: `x < C - 1` is `x + 1 < C`, false for `C = 0`. -/
def advanceCursor (s : State) : State × Bool :=
  if s.curCh.toNat + 1 < s.channels.toNat then ({ s with curCh := s.curCh + 1 }, false)
  else if s.curCol.toNat + 1 < s.width.toNat then
    ({ s with curCh := 0, curCol := s.curCol + 1 }, false)
  else if s.curRow.toNat + 1 < s.height.toNat then
    ({ s with curCh := 0, curCol := 0, curRow := s.curRow + 1 }, false)
  else if s.planeIndex = 7 then ({ s with curCh := 0, curCol := 0, curRow := 0 }, true)
  else
    ({ s with curCh := 0, curCol := 0, curRow := 0, planeIndex := s.planeIndex + 1 }, false)

/-- The end of a Multi-Plane slot (R140 (3), (4)): SLOT, then the cursor; a bit that meets
`CapacityExhausted` is lost (R136). -/
def advanceWith (b : Bool) (s : State) : SlotResult :=
  match advanceCursor (nextSlot s) with
  | (t, true) => .exhausted t
  | (t, false) => .bit b t

/-- The read-modify-write of one channel byte (R133, R135): `PixRead`, then `PixWrite`, always. -/
def modifyPix (a : Nat) (change : Byte → Byte) (s : State) : Except Fault State :=
  match pixRead s a with
  | .error r => .error r
  | .ok v => pixWrite s a (change v)

/-- `PutBit.P0(b)` (R133). -/
def putBitP0 (b : Bool) (s : State) : SlotResult :=
  match modifyPix (flatAddress s) (fun v => withBit0 v b) s with
  | .error r => .stuck r
  | .ok t => .bit b (nextSlot t)

/-- `ReadBit.P0()` (R134). -/
def readBitP0 (s : State) : SlotResult :=
  match pixRead s (flatAddress s) with
  | .error r => .stuck r
  | .ok v => .bit (v.getLsbD 0) (nextSlot s)

/-- `PutBit.MP(b)` (R135). -/
def putBitMp (b : Bool) (s : State) : SlotResult :=
  match modifyPix (cursorAddress s) (fun v => withPlaneBit s.planeIndex v b) s with
  | .error r => .stuck r
  | .ok t => advanceWith b t

/-- `ReadBit.MP()` (R136). -/
def readBitMp (s : State) : SlotResult :=
  match pixRead s (cursorAddress s) with
  | .error r => .stuck r
  | .ok v => advanceWith (planeBit s.planeIndex v) s

/-- `PutBit` by the variant of the running command (R130, R212). -/
def putBit (b : Bool) (s : State) : SlotResult :=
  match s.status.varl with
  | .p0 => putBitP0 b s
  | .mp => putBitMp b s

/-- `ReadBit` by the variant of the running command (R130, R212). -/
def readBit (s : State) : SlotResult :=
  match s.status.varl with
  | .p0 => readBitP0 s
  | .mp => readBitMp s

/-- The load of a payload byte at `j = 0` (spec/40_framer_shifter.md R117). -/
def loadShreg (s : State) : Except Fault State :=
  if bodyBit s.slot.toNat = 0 then
    match payRead s (bodyByte s.slot.toNat) with
    | .error r => .error r
    | .ok v => .ok { s with shreg := v }
  else .ok s

/-- The bit an encode sends in this slot: the header's from LENREG (R112), the body's from SHREG, which
shifts left with zero fill (R117). -/
def chooseBit (s : State) : Except Fault (Bool × State) :=
  match s.status.phase with
  | .body =>
    match loadShreg s with
    | .error r => .error r
    | .ok t => .ok (t.shreg.getLsbD 7, { t with shreg := t.shreg <<< 1 })
  | .idle | .hdr => .ok (frame64Bit s.lenreg s.slot.toNat, s)

/-- The delivery of a bit a decode read at slot `slot`: the header's into LENREG (R113), the body's into
SHREG, with `PayWrite` of a completed byte at `j = 7` (R118). -/
def deliverBit (slot : Nat) (b : Bool) (s : State) : Except Fault State :=
  match s.status.phase with
  | .body =>
    let t : State := { s with shreg := shiftIn s.shreg b }
    if bodyBit slot = 7 then payWrite t (bodyByte slot) t.shreg else .ok t
  | .idle | .hdr => .ok { s with lenreg := shiftIn s.lenreg b }

end Sys2Proof.Machine
end

