-- ==== Sys2Proof/Machine/CoreStep.lean ====
section
/-! DEFINITION. The core step and the phase machine, spec/44_system_commands.md R208 to R212. -/

namespace Sys2Proof.Machine

/-- A decode ends without data (R210): RLEN 0, NODATA 1, complete. -/
def completeNoData (s : State) : State :=
  complete { s with rlen := 0, status := { s.status with nodata := true } }

/-- A decode ends with its payload (R211): RLEN the accepted length, NODATA 0, complete. -/
def completeWithData (s : State) : State :=
  complete { s with rlen := s.lenreg, status := { s.status with nodata := false } }

/-- `PHASE <- BODY` (R210). -/
def enterBody (s : State) : State := { s with status := { s.status with phase := .body } }

/-- Whether a decode takes its header value for no data (R210): 0, and in Plane-0 only a value above
`maxP0` (spec/42_plane0_codec.md R166; spec/43_multiplane_codec.md R186 sets no upper bound). -/
def headerRejected (s : State) : Bool :=
  match s.status.varl with
  | .p0 => s.lenreg = 0 || maxP0 s < (s.lenreg.toNat : Int)
  | .mp => s.lenreg = 0

/-- The end-of-header decision (R210). -/
def endOfHeader (s : State) : State :=
  match s.status.opl with
  | .enc => if s.lenreg = 0 then complete s else enterBody s
  | .dec => if headerRejected s then completeNoData s else enterBody s
  | .none | .cap => s

/-- The end-of-body decision (R211) after the step for slot `slot`: `k == Lt - 1` is `k + 1 = Lt`. -/
def endOfBody (slot : Nat) (s : State) : State :=
  if bodyBit slot = 7 ∧ bodyByte slot + 1 = s.lenreg.toNat then
    match s.status.opl with
    | .dec => completeWithData s
    | .enc | .none | .cap => complete s
  else s

/-- What follows a slot that raised nothing (R212, last lines). -/
def afterSlot (slot : Nat) (s : State) : State :=
  match s.status.phase with
  | .hdr => if slot = 63 then endOfHeader s else s
  | .body => endOfBody slot s
  | .idle => s

/-- `CapacityExhausted(x[SLOT])` (R138 step 4, spec/60_exceptions.md R232). -/
def raiseExhausted (s : State) : State := raise .capacityExhausted (s.slot.setWidth 64) s

/-- A core step of an encode (R212): choose the bit, put it, decide. -/
def encodeStep (s : State) : Host.Outcome State Fault Refusal :=
  match chooseBit s with
  | .error r => .fault r
  | .ok (b, t) =>
    match putBit b t with
    | .stuck r => .fault r
    | .exhausted u => .next (raiseExhausted u)
    | .bit _ u => .next (afterSlot s.slot.toNat u)

/-- A core step of a decode (R212): read the bit, deliver it, decide. -/
def decodeStep (s : State) : Host.Outcome State Fault Refusal :=
  match readBit s with
  | .stuck r => .fault r
  | .exhausted u => .next (raiseExhausted u)
  | .bit b u =>
    match deliverBit s.slot.toNat b u with
    | .error r => .fault r
    | .ok v => .next (afterSlot s.slot.toNat v)

/-- PHASE and SLOT belong together as spec/10_state.md R41 says of a busy block. -/
def phaseMatchesSlot (s : State) : Bool :=
  match s.status.phase with
  | .idle => false
  | .hdr => s.slot.toNat ≤ 63
  | .body => 64 ≤ s.slot.toNat

/-- One core step, R212, for a block with BUSY = 1. States that R26 and R41 rule out have no successor
(log 8). -/
def coreStep (s : State) : Host.Outcome State Fault Refusal :=
  if phaseMatchesSlot s then
    match s.status.opl with
    | .enc => encodeStep s
    | .dec => decodeStep s
    | .none | .cap => .fault .incoherent
  else .fault .incoherent

end Sys2Proof.Machine
end

