-- ==== Sys2Proof/Syntax.lean ====
section
/-! DEFINITION. The instructions: one constructor per row of spec/opcode_table.json. -/

namespace Sys2Proof

/-- The eight commands of spec/30_encoding.md R92 and the two register accesses of R97. A command
carries no register numbers and no immediate (R90): its operands are CSRs and memories. -/
inductive Instr where
  /-- `NOP`, R204 -/
  | nop
  /-- `CAP.P0`, R161 -/
  | capP0
  /-- `CAP.MP`, R181 -/
  | capMp
  /-- `ENC.P0`, R163 -/
  | encP0
  /-- `ENC.MP`, R183 -/
  | encMp
  /-- `DEC.P0`, R165 -/
  | decP0
  /-- `DEC.MP`, R185 -/
  | decMp
  /-- `CLR`, R205 -/
  | clr
  /-- `CSRR n`, R201 -/
  | csrr (n : Nat)
  /-- `CSRW n, value`, R202 -/
  | csrw (n : Nat) (value : XWord)
  deriving DecidableEq, Repr

end Sys2Proof
end

