-- ==== Sys2Proof/WellFormed.lean ====
section
/-! DEFINITION. Which instruction terms the spec's encodings spell. -/

namespace Sys2Proof

/-- A CSR number of the file of spec/10_state.md R21: "the register number, 0 to 17" (R97). -/
def csrNumberDefined (n : Nat) : Bool := n ≤ 17

/-- The check on an instruction term. A command has no operand to check; a register access names a
register of the file. A reserved number (18 and above) is not well-formed as a name and still runs:
R22 (a) and (b) say what it does (log 10). -/
def Instr.wellFormed : Instr → Bool
  | .nop => true
  | .capP0 => true
  | .capMp => true
  | .encP0 => true
  | .encMp => true
  | .decP0 => true
  | .decMp => true
  | .clr => true
  | .csrr n => csrNumberDefined n
  | .csrw n _ => csrNumberDefined n

end Sys2Proof
end

