-- ==== Sys2Proof/Decode.lean ====
section
/-! DEFINITION. The decoder of host accesses and, after it, the encoder. spec/30_encoding.md R90 to
R97. Both are written from the command map of R92; the decoder looks "only at the whole 64-bit word". -/

namespace Sys2Proof

/-- Why a command word is illegal (R94). -/
inductive DecodeError where
  /-- `c[63:4]` is not 0 -/
  | reservedBitsNotZero
  /-- `c[63:4]` is 0 and `c[3:0]` is `0x1`, `0x9` or `0xA` to `0xF` -/
  | noSuchCommand
  deriving DecidableEq, Repr

/-- Field `zero` of the format CMDW, bits 63:4 (R90). -/
def cmdZeroField (c : XWord) : BitVec 60 := c.extractLsb' 4 60

/-- Fields `op` and `v` of the format CMDW together, bits 3:0 (R90, R92). -/
def cmdCode (c : XWord) : BitVec 4 := c.extractLsb' 0 4

/-- The rows of R92 for a code `c[3:0]`. -/
def commandOfCode (code : BitVec 4) : Except DecodeError Instr :=
  match code.toNat with
  | 0x0 => .ok .nop
  | 0x2 => .ok .capP0
  | 0x3 => .ok .capMp
  | 0x4 => .ok .encP0
  | 0x5 => .ok .encMp
  | 0x6 => .ok .decP0
  | 0x7 => .ok .decMp
  | 0x8 => .ok .clr
  | _ => .error .noSuchCommand

/-- A command word: `c[63:4]` must be 0 and `c[3:0]` selects the row (R92). -/
def decodeCommand (c : XWord) : Except DecodeError Instr :=
  if cmdZeroField c = 0 then commandOfCode (cmdCode c) else .error .reservedBitsNotZero

/-- The decoder, total on every access a host can make. A register access is taken as it stands,
whatever its number (R22, R97). -/
def decode : HostWord → Except DecodeError Instr
  | .cmd c => decodeCommand c
  | .read n => .ok (.csrr n)
  | .write n value => .ok (.csrw n value)

/-- The word of a command, built from its fields (R90): 60 zero bits, `op`, `v`. -/
def cmdWord (op : BitVec 3) (v : BitVec 1) : XWord := (0#60 ++ op ++ v).setWidth 64

/-- The encoder: the access an instruction is written as (R92, R97). -/
def encode : Instr → HostWord
  | .nop => .cmd (cmdWord 0 0)
  | .capP0 => .cmd (cmdWord 1 0)
  | .capMp => .cmd (cmdWord 1 1)
  | .encP0 => .cmd (cmdWord 2 0)
  | .encMp => .cmd (cmdWord 2 1)
  | .decP0 => .cmd (cmdWord 3 0)
  | .decMp => .cmd (cmdWord 3 1)
  | .clr => .cmd (cmdWord 4 0)
  | .csrr n => .read n
  | .csrw n value => .write n value

/-- The word a table row stands for, as the decoder's input: a command word travels whole over the
64-bit command port, so the bits above `nbits` are 0. A row without bits (the format HOSTREG) has
no word: none. -/
def tableCommandWord (nbits w : Nat) : Option XWord :=
  if nbits = 0 ∨ 64 < nbits then none else some (BitVec.ofNat 64 (w % 2 ^ nbits))

/-- What the decoder reads from the instruction whose bits, numbered as spec/opcode_table.json
numbers them, are `w`. -/
def decodeTableWord (nbits w : Nat) : Option Instr :=
  match tableCommandWord nbits w with
  | none => none
  | some c =>
    match decodeCommand c with
    | .ok i => some i
    | .error _ => none

end Sys2Proof
end

