-- ==== Sys2Proof/Machine/MultiPlane.lean ====
section
/-! DEFINITION. The Multi-Plane commands, spec/43_multiplane_codec.md. -/

namespace Sys2Proof.Machine

/-- `CAP.MP` (R181), complete within the CMD write (R206). -/
def execCapMp (s : State) : Host.Outcome State Fault Refusal :=
  commandPort false (fun t => capacity .mp (capacityMp t) t) s

/-- `ENC.MP` (R183): START(ENC, MP); the slots follow as core steps. -/
def execEncMp (s : State) : Host.Outcome State Fault Refusal := commandPort false (start .enc .mp) s

/-- `DEC.MP` (R185): START(DEC, MP); the slots follow as core steps. -/
def execDecMp (s : State) : Host.Outcome State Fault Refusal := commandPort false (start .dec .mp) s

end Sys2Proof.Machine
end

