-- ==== Sys2Proof/Machine/Plane0.lean ====
section
/-! DEFINITION. The Plane-0 commands, spec/42_plane0_codec.md. -/

namespace Sys2Proof.Machine

/-- `CAP.P0` (R161), complete within the CMD write (R206). -/
def execCapP0 (s : State) : Host.Outcome State Fault Refusal :=
  commandPort false (fun t => capacity .p0 (capacityP0 t) t) s

/-- `ENC.P0` (R163): START(ENC, P0); the slots follow as core steps. -/
def execEncP0 (s : State) : Host.Outcome State Fault Refusal := commandPort false (start .enc .p0) s

/-- `DEC.P0` (R165): START(DEC, P0); the slots follow as core steps. -/
def execDecP0 (s : State) : Host.Outcome State Fault Refusal := commandPort false (start .dec .p0) s

end Sys2Proof.Machine
end

