-- ==== Sys2Proof/Machine/System.lean ====
section
/-! DEFINITION. The system commands and the register accesses, spec/44_system_commands.md. -/

namespace Sys2Proof.Machine

/-- `NOP` (R204): accepted while FAULT = 1, changes nothing. -/
def execNop (s : State) : Host.Outcome State Fault Refusal := commandPort true id s

/-- `CLR` (R205): accepted while FAULT = 1. -/
def execClr (s : State) : Host.Outcome State Fault Refusal := commandPort true clearRecord s

/-- An illegal word at the command port (spec/30_encoding.md R94, R95; spec/60_exceptions.md R234): the
fault `IllegalCommand(c)` where the port looks at the word. -/
def illegalCommand (c : XWord) (s : State) : Host.Outcome State Fault Refusal :=
  commandPort false (raise .illegalCommand c) s

/-- `command(c)` (R203), the effect of writing `c` to CMD. -/
def command (c : XWord) (s : State) : Host.Outcome State Fault Refusal :=
  if cmdZeroField c ≠ 0 then illegalCommand c s
  else
    match (cmdCode c).toNat with
    | 0x0 => execNop s
    | 0x2 => execCapP0 s
    | 0x3 => execCapMp s
    | 0x4 => execEncP0 s
    | 0x5 => execEncMp s
    | 0x6 => execDecP0 s
    | 0x7 => execDecMp s
    | 0x8 => execClr s
    | _ => illegalCommand c s

/-- `CSRR n` (R201): the value goes to the host; the block is unchanged (R22 (e)). -/
def execCsrr (n : Nat) (s : State) : Host.Outcome State Fault Refusal :=
  .next { s with hostValue := csrRead s n }

/-- `CSRW n, value` (R202): nothing while BUSY; a command for CMD; else a store. -/
def execCsrw (n : Nat) (value : XWord) (s : State) : Host.Outcome State Fault Refusal :=
  if s.status.busy then .next s
  else if n = 1 then command value s
  else .next (csrStore s n value)

end Sys2Proof.Machine
end

