-- ==== Sys2Proof/Machine/Dispatch.lean ====
section
/-! DEFINITION. The meaning of every instruction, one arm per constructor. -/

namespace Sys2Proof.Machine

/-- What an instruction does. A command constructor means the CMD write of its word
(spec/10_state.md R24). -/
def exec (i : Instr) (s : State) : Host.Outcome State Fault Refusal :=
  match i with
  | .nop => Sys2Proof.Machine.execNop s
  | .capP0 => Sys2Proof.Machine.execCapP0 s
  | .capMp => Sys2Proof.Machine.execCapMp s
  | .encP0 => Sys2Proof.Machine.execEncP0 s
  | .encMp => Sys2Proof.Machine.execEncMp s
  | .decP0 => Sys2Proof.Machine.execDecP0 s
  | .decMp => Sys2Proof.Machine.execDecMp s
  | .clr => Sys2Proof.Machine.execClr s
  | .csrr n => Sys2Proof.Machine.execCsrr n s
  | .csrw n value => Sys2Proof.Machine.execCsrw n value s

end Sys2Proof.Machine
end

