-- ==== Sys2Proof/Machine/Turns.lean ====
section
/-! DEFINITION. Whose turn it is and what a turn does: host steps and core steps interleaved,
spec/44_system_commands.md R200; loads, fills and unloads of PIX and PAY and WAIT, spec/30_encoding.md
R99, R100; the platform's reset, spec/70_reset_and_hazards.md R260. -/

namespace Sys2Proof.Machine

/-- A host access: the decoded instruction runs; a word that decodes to none is an illegal command and
takes its fault (spec/30_encoding.md R94). -/
def hostAccess (w : HostWord) (s : State) : Host.Outcome State Fault Refusal :=
  match decode w with
  | .ok i => exec i s
  | .error _ =>
    match w with
    | .cmd c => illegalCommand c s
    | .read _ | .write _ _ => .next s

/-- A core turn (R200): a core step, enabled exactly when BUSY = 1; without it the turn passes. -/
def coreTurn (s : State) : Host.Outcome State Fault Refusal :=
  if s.status.busy then coreStep s else .next s

/-- A host access to PIX or PAY: only while BUSY = 0 (spec/20_memory.md R80, log 7). With BUSY = 0 it is an
ordinary access, whether or not the host has observed BUSY = 0 since the command's START: R267 of
spec/70_reset_and_hazards.md gives no defined result in that interval (DESIGN CHOICE, log 19). -/
def hostMemory (act : State → Host.Outcome State Fault Refusal) (s : State) :
    Host.Outcome State Fault Refusal :=
  if s.status.busy then .refused .hostMemoryWhileBusy else act s

/-- LDPIX and FILLPIX (R99). -/
def storePix (a : Nat) (bytes : List Byte) (s : State) : Host.Outcome State Fault Refusal :=
  if backed s.cfg.pixSize a bytes.length then .next { s with pix := s.pix.writeBytes a bytes }
  else .fault (.pixNotBacked a)

/-- LDPAY (R99). -/
def storePay (a : Nat) (bytes : List Byte) (s : State) : Host.Outcome State Fault Refusal :=
  if backed s.cfg.paySize a bytes.length then .next { s with pay := s.pay.writeBytes a bytes }
  else .fault (.payNotBacked a)

/-- RDPIX (R99). -/
def fetchPix (a count : Nat) (s : State) : Host.Outcome State Fault Refusal :=
  if backed s.cfg.pixSize a count then .next { s with hostBytes := s.pix.readBytes a count }
  else .fault (.pixNotBacked a)

/-- RDPAY (R99). -/
def fetchPay (a count : Nat) (s : State) : Host.Outcome State Fault Refusal :=
  if backed s.cfg.paySize a count then .next { s with hostBytes := s.pay.readBytes a count }
  else .fault (.payNotBacked a)

/-- WAIT (R100): one poll `CSRR STATUS`; while BUSY reads 1 the core gets a turn and the host polls again
(log 12). -/
def waitPoll (s : State) : State :=
  let t : State := { s with hostValue := csrRead s 2 }
  if s.status.busy then { t with turns := .core :: .wait :: t.turns } else t

/-- What a turn does. -/
def takeTurn (turn : Turn) (s : State) : Host.Outcome State Fault Refusal :=
  match turn with
  | .access w => hostAccess w s
  | .core => coreTurn s
  | .loadPix a bytes => hostMemory (storePix a bytes) s
  | .fillPix a count byte => hostMemory (storePix a (List.replicate count byte)) s
  | .loadPay a bytes => hostMemory (storePay a bytes) s
  | .readPix a count => hostMemory (fetchPix a count) s
  | .readPay a count => hostMemory (fetchPay a count) s
  | .wait => .next (waitPoll s)
  | .reset pix pay => .next (resetBlock pix pay s)

/-- One step: the oldest pending turn; with none pending the core's turn, so that a busy core is always
scheduled in the end (spec/44_system_commands.md R214) and an idle block stays as it is (R260). -/
def nextTurn (s : State) : Host.Outcome State Fault Refusal :=
  match s.turns with
  | [] => coreTurn s
  | turn :: rest => takeTurn turn { s with turns := rest }

/-- The state with a command word as its oldest pending turn (log 11). -/
def pushCommandWord (nbits w : Nat) (s : State) : State :=
  { s with turns := .access (.cmd (BitVec.ofNat 64 (w % 2 ^ nbits))) :: s.turns }

end Sys2Proof.Machine
end

