-- ==== Sys2Proof/Machine/Step.lean ====
section
/-! DEFINITION. The step function and the host's way to place an instruction. -/

namespace Sys2Proof.Machine

/-- One step of the whole machine (spec/00_scope.md R13). -/
def step (s : State) : Host.Outcome State Fault Refusal := nextTurn s

/-- `s` with the instruction whose bits are `w` as the very next thing the host presents: the block
fetches nothing (spec/20_memory.md R78), so an instruction arrives as a host access (log 11). -/
def State.withFetchWord (s : State) (nbits w : Nat) : State := pushCommandWord nbits w s

end Sys2Proof.Machine
end

