-- ==== Sys2Proof/Machine/HostNotation.lean ====
section
/-! DEFINITION. The host notation of spec/30_encoding.md R99 and the pseudo-instructions of R100, as
lists of turns. They are notation, not hardware. -/

namespace Sys2Proof.Machine

/-- The numbers of the registers the notation names (spec/10_state.md R21). -/
abbrev csrCmd : Nat := 1
abbrev csrStatus : Nat := 2
abbrev csrHeight : Nat := 5
abbrev csrWidth : Nat := 6
abbrev csrChannels : Nat := 7
abbrev csrPlen : Nat := 8
abbrev csrRlen : Nat := 9
abbrev csrCapbytes : Nat := 11

/-- The line of an instruction: `CSRW`, `CSRR` or `CMD mnemonic` (R99). -/
def line (i : Instr) : Turn := .access (encode i)

/-- `SETDIM h, w, c` (R100). -/
def setDim (h w c : XWord) : List Turn :=
  [line (.csrw csrHeight h), line (.csrw csrWidth w), line (.csrw csrChannels c)]

/-- `CAPACITY.P0 h, w, c` (R100). -/
def capacityP0Lines (h w c : XWord) : List Turn :=
  setDim h w c ++ [line .capP0, line (.csrr csrCapbytes)]

/-- `CAPACITY.MP h, w, c` (R100). -/
def capacityMpLines (h w c : XWord) : List Turn :=
  setDim h w c ++ [line .capMp, line (.csrr csrCapbytes)]

/-- `ENCODE.P0 h, w, c, len` (R100). -/
def encodeP0Lines (h w c len : XWord) : List Turn :=
  setDim h w c ++ [line (.csrw csrPlen len), line .encP0, .wait, line (.csrr csrStatus)]

/-- `ENCODE.MP h, w, c, len` (R100). -/
def encodeMpLines (h w c len : XWord) : List Turn :=
  setDim h w c ++ [line (.csrw csrPlen len), line .encMp, .wait, line (.csrr csrStatus)]

/-- `DECODE.P0 h, w, c` (R100). -/
def decodeP0Lines (h w c : XWord) : List Turn :=
  setDim h w c ++ [line .decP0, .wait, line (.csrr csrStatus), line (.csrr csrRlen)]

/-- `DECODE.MP h, w, c` (R100). -/
def decodeMpLines (h w c : XWord) : List Turn :=
  setDim h w c ++ [line .decMp, .wait, line (.csrr csrStatus), line (.csrr csrRlen)]

end Sys2Proof.Machine
end

