-- ==== Sys2Proof/Machine/Reference.lean ====
section
/-! DEFINITION. The spec's reference functions, written without steps: the frame
(spec/40_framer_shifter.md R110), the Plane-0 and Multi-Plane codecs as functions of the buffer
(spec/42_plane0_codec.md R169, spec/43_multiplane_codec.md R189). Claims compare runs with them. -/

namespace Sys2Proof.Machine

/-- `stream(L, p)[s]` in the closed form of R110: `L[63 - s]` for `s < 64`, else
`p[(s-64) div 8][7 - ((s-64) mod 8)]`. -/
def streamBit (len : Nat) (p : Nat → Byte) (s : Nat) : Bool :=
  if s < 64 then len.testBit (63 - s) else (p ((s - 64) / 8)).getLsbD (7 - (s - 64) % 8)

/-- The number that `n` bits from slot `s` on spell, the first bit the most significant (R116):
`sum over i < n of bit(s + i) * 2^(n - 1 - i)`. -/
def bitsValue (bit : Nat → Bool) (s : Nat) : Nat → Nat
  | 0 => 0
  | n + 1 => 2 * bitsValue bit s n + (bit (s + n)).toNat

/-- What a decode delivers (R169, R189). -/
inductive DecodeResult where
  /-- no hidden data -/
  | noData
  /-- the payload -/
  | payload (p : List Byte)
  /-- `CapacityExhausted` -/
  | exhausted
  deriving DecidableEq, Repr

/-- The payload of `len` bytes that the slots from 64 on spell. -/
def payloadOf (bit : Nat → Bool) (len : Nat) : List Byte :=
  (List.range len).map (fun k => BitVec.ofNat 8 (bitsValue bit (64 + 8 * k) 8))

/-- `encP0(pix, p)` (R169). -/
def referenceEncodeP0 (pix : Nat → Byte) (len : Nat) (p : Nat → Byte) (a : Nat) : Byte :=
  if a < frameSlots len then withBit0 (pix a) (streamBit len p a) else pix a

/-- `decP0(pix)` (R169) for a buffer of `f` channel bytes: no data for a header of 0 or above
`floor(f/8) - 8`. -/
def referenceDecodeP0 (f : Nat) (pix : Nat → Byte) : DecodeResult :=
  let bit := fun s => (pix s).getLsbD 0
  let len := bitsValue bit 0 64
  if len = 0 ∨ ((f / 8 : Nat) : Int) - 8 < (len : Int) then .noData else .payload (payloadOf bit len)

/-- Bit `q` of byte `a` of `encMP(pix, p)` (R189). -/
def referenceEncodeMpBit (f : Nat) (pix : Nat → Byte) (len : Nat) (p : Nat → Byte) (a q : Nat) : Bool :=
  if q * f + a < frameSlots len then streamBit len p (q * f + a) else (pix a).getLsbD q

/-- `bit(s) = pix[s mod F][s div F]` (R189). -/
def mpSlotBit (f : Nat) (pix : Nat → Byte) (s : Nat) : Bool := (pix (s % f)).getLsbD (s / f)

/-- `decMP(pix)` (R189) for a buffer of `f` channel bytes. -/
def referenceDecodeMp (f : Nat) (pix : Nat → Byte) : DecodeResult :=
  if f ≤ 8 then .exhausted
  else
    let len := bitsValue (mpSlotBit f pix) 0 64
    if len = 0 then .noData
    else if len + 9 ≤ f then .payload (payloadOf (mpSlotBit f pix) len)
    else .exhausted

end Sys2Proof.Machine
end

