-- ==== Sys2Proof/Safety.lean ====
section
/-! DEFINITION. The terms claims use: the machine's invariant, what a frame leaves alone, what a
command's platform must back, and runs of the core. -/

namespace Sys2Proof.Machine

/-- The invariants of STATUS, spec/10_state.md R26 (a) to (e). -/
structure StatusInv (s : State) : Prop where
  busy_iff_running : s.status.busy = true ↔ s.status.phase ≠ .idle
  not_busy_and_done : ¬(s.status.busy = true ∧ s.status.done = true)
  not_busy_and_fault : ¬(s.status.busy = true ∧ s.status.fault = true)
  not_done_and_fault : ¬(s.status.done = true ∧ s.status.fault = true)
  nodata_means : s.status.nodata = true → s.status.done = true ∧ s.status.opl = .dec ∧ s.rlen = 0
  fault_iff_cause : s.status.fault = true ↔ s.cause ≠ .none
  capneg_means : s.status.capneg = true → s.capbytes = 0

/-- A Plane-0 command in progress: the cursor stays at the origin of plane 0 (R34, R35) and the slots it
will use lie in the buffer (spec/20_memory.md R72 (a)). -/
structure PlaneZeroRunning (s : State) : Prop where
  row_zero : s.curRow = 0
  col_zero : s.curCol = 0
  ch_zero : s.curCh = 0
  plane_zero : s.planeIndex = 0
  header_fits : 64 ≤ flatLength s
  frame_fits : s.status.opl = .enc ∨ s.status.phase = .body → frameSlots s.lenreg.toNat ≤ flatLength s

/-- A Multi-Plane command in progress: the cursor is in range (R34) and stands where SLOT says, the
closed form of spec/41_sequencer_cursor.md R147. -/
structure MultiPlaneRunning (s : State) : Prop where
  row_in_range : s.curRow.toNat < s.height.toNat
  col_in_range : s.curCol.toNat < s.width.toNat
  ch_in_range : s.curCh.toNat < s.channels.toNat
  slot_in_sweep : s.slot.toNat < sweepSlots s
  address_is : cursorAddress s = s.slot.toNat % flatLength s
  plane_is : s.planeIndex.toNat = s.slot.toNat / flatLength s
  precheck_passed : s.status.opl = .enc → frameSlots s.lenreg.toNat ≤ precheckSlots s

/-- A command in progress (R41, R208 to R211). -/
structure Running (s : State) : Prop where
  encode_or_decode : s.status.opl = .enc ∨ s.status.opl = .dec
  header_slot : s.status.phase = .hdr → s.slot.toNat ≤ 63
  body_slot : s.status.phase = .body → 64 ≤ s.slot.toNat ∧ s.slot.toNat < frameSlots s.lenreg.toNat
  rlen_zero : s.rlen = 0
  encode_length : s.status.opl = .enc → s.lenreg = s.plen
  plane_zero : s.status.varl = .p0 → PlaneZeroRunning s
  multi_plane : s.status.varl = .mp → MultiPlaneRunning s

/-- The machine's invariant: what every step keeps from every state that has it. -/
structure MachineInv (s : State) : Prop where
  status : StatusInv s
  running : s.status.busy = true → Running s
  pix_canonical : Memory.wf s.pix
  pay_canonical : Memory.wf s.pay

/-- Every CSR but those numbered in `except` reads the same in both states (spec/10_state.md R21). -/
def SameRegistersBut (except : List Nat) (s t : State) : Prop :=
  ∀ n, n ∉ except → csrRead t n = csrRead s n

/-- Every byte of PIX and of PAY reads the same in both states. -/
def SameMemories (s t : State) : Prop :=
  (∀ a, t.pix.read a = s.pix.read a) ∧ ∀ a, t.pay.read a = s.pay.read a

/-- The model's own fields are the same in both states: the parameters, the pending turns and what the
host holds. -/
def SameSurroundings (s t : State) : Prop :=
  t.cfg = s.cfg ∧ t.turns = s.turns ∧ t.hostValue = s.hostValue ∧ t.hostBytes = s.hostBytes

/-- The block takes a command word other than NOP and CLR (spec/30_encoding.md R95 (3)). -/
def Accepting (s : State) : Prop := s.status.busy = false ∧ s.status.fault = false

/-- What a START that passes its checks leaves (spec/44_system_commands.md R207): the latch, the state of
a fresh codec with LENREG `len`, PHASE `HDR` and BUSY; FAULT, CAPNEG and every register START does not
name, both memories and the surroundings as they were. -/
structure StartedAs (op : Operation) (var : Variant) (len : XWord) (s t : State) : Prop where
  status : t.status = { s.status with
    busy := true, done := false, nodata := false, phase := .hdr, opl := op, varl := var }
  cursor : t.curRow = 0 ∧ t.curCol = 0 ∧ t.curCh = 0 ∧ t.planeIndex = 0
  slot : t.slot = 0
  shreg : t.shreg = 0
  lenreg : t.lenreg = len
  rlen : t.rlen = 0
  registers : SameRegistersBut [2, 9, 10, 12, 13, 14, 15, 16, 17] s t
  memories : SameMemories s t
  surroundings : SameSurroundings s t

/-- What fault entry leaves of a state `s` (spec/60_exceptions.md R236): the flags, the record and RLEN;
CAPNEG, OPL, VARL and every other register, both memories and the surroundings as they were. -/
structure FaultTaken (x : Cause) (info : XWord) (s t : State) : Prop where
  status : t.status = { s.status with
    busy := false, done := false, nodata := false, fault := true, phase := .idle }
  cause : t.cause = x
  finfo : t.finfo = info
  rlen : t.rlen = 0
  registers : SameRegistersBut [2, 3, 4, 9] s t
  memories : SameMemories s t
  surroundings : SameSurroundings s t

/-- What a START that fails a check leaves of a state `s`: "Part 1 happens even when part 2 faults"
(R207), so the latch and the cleared datapath stand beside the fault record. -/
structure StartRefused (op : Operation) (var : Variant) (info : XWord) (s t : State) : Prop where
  status : t.status = { s.status with
    busy := false, done := false, nodata := false, fault := true, phase := .idle, opl := op, varl := var }
  cause : t.cause = .capacityError
  finfo : t.finfo = info
  cursor : t.curRow = 0 ∧ t.curCol = 0 ∧ t.curCh = 0 ∧ t.planeIndex = 0
  slot : t.slot = 0
  shreg : t.shreg = 0
  lenreg : t.lenreg = 0
  rlen : t.rlen = 0
  registers : SameRegistersBut [2, 3, 4, 9, 10, 12, 13, 14, 15, 16, 17] s t
  memories : SameMemories s t
  surroundings : SameSurroundings s t

/-- A command that completed without a fault (R209, R40). -/
def Completed (t : State) : Prop :=
  t.status.busy = false ∧ t.status.phase = .idle ∧ t.status.done = true ∧ t.status.fault = false

/-- A command that ended with `CapacityExhausted` in the buffer of `f` channel bytes
(spec/41_sequencer_cursor.md R139, spec/60_exceptions.md R232, R236). -/
def EndedExhausted (f : Nat) (t : State) : Prop :=
  t.status.busy = false ∧ t.status.phase = .idle ∧ t.status.done = false ∧ t.status.nodata = false ∧
    t.status.fault = true ∧ t.cause = .capacityExhausted ∧ t.finfo.toNat = 8 * f ∧ t.rlen = 0 ∧
    t.curRow = 0 ∧ t.curCol = 0 ∧ t.curCh = 0 ∧ t.planeIndex = 7 ∧ t.slot.toNat = 8 * f

/-- A core step stands before a state whose command words, dimensions and lengths are these: what no core
step changes (spec/10_state.md R29, R32 on an encode, R42; spec/44_system_commands.md R213). -/
def SameOperands (s t : State) : Prop :=
  t.height = s.height ∧ t.width = s.width ∧ t.channels = s.channels ∧ t.plen = s.plen ∧
    t.capbytes = s.capbytes ∧ t.status.opl = s.status.opl ∧ t.status.varl = s.status.varl ∧
    t.status.capneg = s.status.capneg

/-- The platform backs `f` bytes of PIX (spec/20_memory.md R73). -/
abbrev PixBacked (s : State) (f : Nat) : Prop := f ≤ s.cfg.pixSize

/-- The platform backs `n` bytes of PAY (R73). -/
abbrev PayBacked (s : State) (n : Nat) : Prop := n ≤ s.cfg.paySize

/-- The block with nothing pending, so that every step is the core's while BUSY = 1. That the core then moves
is the model's choice (log 3): R214 leaves the scheduling open and asks a claim that a command finishes to
assume weak fairness of the core. -/
def Undisturbed (s : State) : Prop := s.turns = []

/-- The core reaches `t` from `s` after exactly `n` steps of the machine. -/
def RunsTo (n : Nat) (s t : State) : Prop := Host.Core.run Sys2Proof.core n s = .next t

/-- The bytes `PAY[0 .. n-1]` of a state. -/
def payloadBytes (s : State) (n : Nat) : List Byte := s.pay.readBytes 0 n

/-- The cursor registers and `plane_index` are 0, as a Plane-0 command leaves them (spec/10_state.md R34, R35). -/
def AtOrigin (t : State) : Prop := t.curRow = 0 ∧ t.curCol = 0 ∧ t.curCh = 0 ∧ t.planeIndex = 0

/-- The cursor stands at the slot SLOT counts, the closed form of spec/41_sequencer_cursor.md R147. -/
def CursorAtSlot (t : State) : Prop :=
  cursorAddress t = t.slot.toNat % flatLength t ∧ t.planeIndex.toNat = t.slot.toNat / flatLength t

/-- What a decode that delivered `p` leaves (spec/42_plane0_codec.md R165, spec/43_multiplane_codec.md R185): the
payload in PAY, its length in RLEN and LENREG, its frame counted in SLOT, its last byte in SHREG. -/
def Delivered (p : List Byte) (t : State) : Prop :=
  payloadBytes t p.length = p ∧ t.rlen.toNat = p.length ∧ t.lenreg.toNat = p.length ∧
    t.slot.toNat = frameSlots p.length ∧ p.getLast? = some t.shreg

/-- From `s`, the host's `load` and then its `unload` lead to `t`, with `bytes` in the host's hands and every
register and surrounding as before (spec/30_encoding.md R99). -/
def LoadsAndUnloads (load unload : Turn) (rest : List Turn) (bytes : List Byte) (s t : State) : Prop :=
  RunsTo 2 { s with turns := load :: unload :: rest } t ∧ t.hostBytes = bytes ∧ SameRegistersBut [] s t ∧
    t.cfg = s.cfg ∧ t.turns = rest ∧ t.hostValue = s.hostValue

end Sys2Proof.Machine
end

