-- ==== Sys2Proof/Certificates/Slice0/Obligations.lean ====
section
/-! DEFINITION. The statements for the provers. R<n> are the numbered rules of spec/. -/

open Sys2Proof Sys2Proof.Machine

/-! ## Reset -/

/-- R260: after reset every register reads as the table says, for every register number, the phase is
`IDLE`, nothing is latched, and the block does nothing until the host acts. -/
def Obligations.ResetReadsAsTheTable : Prop :=
  (∀ n, csrRead State.reset n = if n = 0 then 0x000100074C534250 else if n = 15 then 0xFE0100 else 0) ∧
    State.reset.status.phase = .idle ∧ State.reset.status.opl = .none ∧ State.reset.status.varl = .p0 ∧
    step State.reset = .next State.reset

/-- R260, R261: a reset in any state, a busy or a faulted one included, gives every register its reset
value and both memories the contents the platform leaves, in canonical form; the parameters and the
pending turns stay (the last is the model's choice, log 17). -/
def Obligations.ResetWorksFromAnyState : Prop :=
  ∀ (s : State) (rest : List Turn) (pix pay : List Host.Cell), s.turns = .reset pix pay :: rest →
    ∃ t, step s = .next t ∧
      (∀ n, csrRead t n = if n = 0 then 0x000100074C534250 else if n = 15 then 0xFE0100 else 0) ∧
      t.status = Status.reset ∧ t.pix = Memory.ofCells pix ∧ t.pay = Memory.ofCells pay ∧
      Memory.wf t.pix ∧ Memory.wf t.pay ∧ t.cfg = s.cfg ∧ t.turns = rest

/-- The invariant holds at reset. -/
def Obligations.ResetMeetsTheInvariant : Prop := MachineInv State.reset

/-! ## The step -/

/-- R26 (a) to (e), with R34, R35, R41, R72, R147 and the canonical form of the memories: from every state
that meets the invariant, reached or not, whatever turns are pending, a step gives a state that meets it. -/
def Obligations.EveryStepKeepsTheInvariant : Prop := ∀ s t, MachineInv s → step s = .next t → MachineInv t

/-- R200, R13: when the oldest pending turn is a host access, the step is that access to the state without the
turn (the turns are the model's, log 3). It runs the meaning of the instruction the access decodes to; an
illegal word at the command port of a block that accepts commands takes its fault (R94, R234). -/
def Obligations.StepRunsTheDecodedAccess : Prop :=
  ∀ (s : State) (w : HostWord) (rest : List Turn), s.turns = .access w :: rest →
    step s = hostAccess w { s with turns := rest } ∧
    (∀ i, decode w = .ok i → step s = exec i { s with turns := rest }) ∧
    ∀ c e, w = .cmd c → decode w = .error e → Accepting s →
      ∃ t, step s = .next t ∧ FaultTaken .illegalCommand c { s with turns := rest } t

/-- R200: a core step is enabled exactly when BUSY = 1. With nothing pending, and on a core turn, a busy
block makes a core step and any other block stays as it is (which agent moves is the pending turns',
log 3). -/
def Obligations.CoreMovesExactlyWhileBusy : Prop :=
  ∀ s : State,
    (s.turns = [] → s.status.busy = true → step s = coreStep s) ∧
    (s.turns = [] → s.status.busy = false → step s = .next s) ∧
    (∀ rest, s.turns = .core :: rest → s.status.busy = true → step s = coreStep { s with turns := rest }) ∧
    (∀ rest, s.turns = .core :: rest → s.status.busy = false → step s = .next { s with turns := rest })

/-- The placement the host uses: a 64-bit table word that decodes runs as the very next step (log 11). -/
def Obligations.PlacedWordRunsNext : Prop :=
  ∀ (s : State) (w : Nat) (i : Instr), w < 2 ^ 64 → decodeTableWord 64 w = some i →
    step (s.withFetchWord 64 w) = exec i s

/-! ## Encoding -/

/-- R92: the eight words of the command map, written out from it, and two illegal ones. -/
def Obligations.CommandMapWords : Prop :=
  decode (.cmd 0x0) = .ok .nop ∧ decode (.cmd 0x2) = .ok .capP0 ∧ decode (.cmd 0x3) = .ok .capMp ∧
    decode (.cmd 0x4) = .ok .encP0 ∧ decode (.cmd 0x5) = .ok .encMp ∧ decode (.cmd 0x6) = .ok .decP0 ∧
    decode (.cmd 0x7) = .ok .decMp ∧ decode (.cmd 0x8) = .ok .clr ∧
    decode (.cmd 0x9) = .error .noSuchCommand ∧
    decode (.cmd 0x8000000000000004) = .error .reservedBitsNotZero

/-- Decoding what the encoder writes gives the instruction back, for every instruction and operand. -/
def Obligations.DecodeOfEncode : Prop := ∀ i : Instr, decode (encode i) = .ok i

/-- R92: each instruction has one encoded form: whatever decodes is what the encoder writes. -/
def Obligations.EncodeOfDecode : Prop := ∀ (w : HostWord) (i : Instr), decode w = .ok i → encode i = w

/-- R92: the decoder looks at the whole 64-bit word, and these eight rows are all it takes: match is the
value of `c[3:0]` zero-extended, mask is all ones. -/
def Obligations.CommandMapIsComplete : Prop :=
  ∀ (c : XWord) (i : Instr), decode (.cmd c) = .ok i ↔
    (c, i) ∈ [((0x0 : XWord), Instr.nop), (0x2, .capP0), (0x3, .capMp), (0x4, .encP0), (0x5, .encMp),
      (0x6, .decP0), (0x7, .decMp), (0x8, .clr)]

/-! ## System commands and register accesses -/

/-- R204: NOP is `c = 0x0` and changes nothing, in every state, a faulted one included. -/
def Obligations.NopChangesNothing : Prop :=
  decode (.cmd 0x0) = .ok .nop ∧ ∀ s : State, exec .nop s = .next s

/-- R205: CLR clears DONE, FAULT, NODATA, CAPNEG, CAUSE and FINFO, with FAULT = 1 or not, and leaves OPL,
VARL and everything else. -/
def Obligations.ClrClearsFlagsAndRecord : Prop :=
  ∀ s : State, s.status.busy = false →
    ∃ t, exec .clr s = .next t ∧
      t.status = { s.status with done := false, fault := false, nodata := false, capneg := false } ∧
      t.cause = .none ∧ t.finfo = 0 ∧
      SameRegistersBut [2, 3, 4] s t ∧ SameMemories s t ∧ SameSurroundings s t

/-- R201, R22 (e): CSRR hands the host the register's value and changes nothing of the block. -/
def Obligations.CsrrOnlyReads : Prop :=
  ∀ (s : State) (n : Nat), ∃ t, exec (.csrr n) s = .next t ∧ t.hostValue = csrRead s n ∧
    t = { s with hostValue := t.hostValue } ∧
    SameRegistersBut [] s t ∧ SameMemories s t ∧ (n = 1 ∨ 18 ≤ n → t.hostValue = 0)

/-- R21, R25, R98: STATUS reads as the sum of its fields at their bit positions, with the codes of R98 written
out, and bits 63:15 read 0. -/
def Obligations.StatusFieldsStandAtTheirBits : Prop :=
  ∀ s : State, (csrRead s 2).toNat =
    s.status.busy.toNat + 2 * s.status.done.toNat + 4 * s.status.fault.toNat + 8 * s.status.nodata.toNat +
      16 * s.status.capneg.toNat +
      256 * (match s.status.phase with | .idle => 0 | .hdr => 1 | .body => 2) +
      4096 * (match s.status.opl with | .none => 0 | .cap => 1 | .enc => 2 | .dec => 3) +
      16384 * (match s.status.varl with | .p0 => 0 | .mp => 1)

/-- R35, R38, R39: PLANE reads `plane_index`, `MASK_ONE` = `2^plane_index` at bit 8 and `MASK_ZERO`, its
complement in 8 bits, at bit 16. -/
def Obligations.PlaneReadsIndexAndMasks : Prop :=
  ∀ s : State, (csrRead s 15).toNat =
    s.planeIndex.toNat + 256 * 2 ^ s.planeIndex.toNat + 65536 * (255 - 2 ^ s.planeIndex.toNat)

/-- R21, R22 (b), R23, R98: ID reads its constant, CMD and the reserved numbers read 0, CAUSE reads the code of
R98, written out, and every other register but STATUS and PLANE reads as its field, zero-extended. -/
def Obligations.RegistersReadZeroExtended : Prop :=
  ∀ s : State,
    csrRead s 0 = 0x000100074C534250 ∧ csrRead s 1 = 0 ∧ (∀ n, 18 ≤ n → csrRead s n = 0) ∧
    (csrRead s 3).toNat =
      (match s.cause with
        | .none => 0
        | .capacityError => 1
        | .capacityExhausted => 2
        | .formatError => 3
        | .illegalCommand => 4) ∧
    csrRead s 4 = s.finfo ∧
    (csrRead s 5).toNat = s.height.toNat ∧ (csrRead s 6).toNat = s.width.toNat ∧
    (csrRead s 7).toNat = s.channels.toNat ∧ csrRead s 8 = s.plen ∧ csrRead s 9 = s.rlen ∧
    csrRead s 10 = s.lenreg ∧ csrRead s 11 = s.capbytes ∧
    (csrRead s 12).toNat = s.curRow.toNat ∧ (csrRead s 13).toNat = s.curCol.toNat ∧
    (csrRead s 14).toNat = s.curCh.toNat ∧ (csrRead s 16).toNat = s.slot.toNat ∧
    (csrRead s 17).toNat = s.shreg.toNat

/-- R202, R22 (c): with BUSY = 0, FAULT = 1 or not, a write of HEIGHT, WIDTH, CHANNELS or PLEN stores the low
bits of the value and changes only that register. -/
def Obligations.CsrwStoresTheLowBits : Prop :=
  ∀ (s : State) (n : Nat) (value : XWord), s.status.busy = false → 5 ≤ n → n ≤ 8 →
    ∃ t, exec (.csrw n value) s = .next t ∧
      (csrRead t n).toNat = value.toNat % 2 ^ (if n = 8 then 64 else if n = 7 then 8 else 16) ∧
      t.status = s.status ∧ SameRegistersBut [n] s t ∧ SameMemories s t ∧ SameSurroundings s t

/-- R22 (a), R202: a write of a read-only or a reserved number changes nothing and raises nothing. -/
def Obligations.CsrwOfReadOnlyChangesNothing : Prop :=
  ∀ (s : State) (n : Nat) (value : XWord), n ≠ 1 → n < 5 ∨ 8 < n → exec (.csrw n value) s = .next s

/-- R24, R203: writing a word to CMD has the effect of the command it encodes, and an illegal word's write
the effect of presenting that word. -/
def Obligations.CsrwOfCmdIsTheCommand : Prop :=
  ∀ (s : State) (c : XWord),
    (∀ i, decode (.cmd c) = .ok i → exec (.csrw 1 c) s = exec i s) ∧
    (∀ e, decode (.cmd c) = .error e → exec (.csrw 1 c) s = hostAccess (.cmd c) s)

/-- R22 (d), R95 (1), R213: while BUSY = 1 every write and every command word, legal or not, changes nothing,
and a read changes only what the host holds. -/
def Obligations.BusyBlockIgnoresTheHost : Prop :=
  ∀ (s : State) (w : HostWord), s.status.busy = true →
    hostAccess w s = .next { s with hostValue := (match w with | .read n => csrRead s n | _ => s.hostValue) }

/-- R95: a CMD write is examined in this order: (1) ignored while BUSY = 1; (2) else, while FAULT = 1,
ignored unless `c` is `0x0` or `0x8`; (3) else decoded, and an illegal word faults. Ignored means that
nothing changes. The write `CSRW 1, c` and the word at the command port are the same access. -/
def Obligations.CommandWordsAreExaminedInOrder : Prop :=
  ∀ (s : State) (c : XWord),
    exec (.csrw 1 c) s = hostAccess (.cmd c) s ∧
    (s.status.busy = true → hostAccess (.cmd c) s = .next s) ∧
    (s.status.busy = false → s.status.fault = true → c ≠ 0 → c ≠ 8 → hostAccess (.cmd c) s = .next s) ∧
    (s.status.busy = false → s.status.fault = false ∨ c = 0 ∨ c = 8 →
      (∀ i, decode (.cmd c) = .ok i → hostAccess (.cmd c) s = exec i s) ∧
      ∀ e, decode (.cmd c) = .error e →
        ∃ t, hostAccess (.cmd c) s = .next t ∧ FaultTaken .illegalCommand c s t)

/-- R94, R234: a command word is illegal exactly when `c[63:4]` is not 0, or `c[3:0]` is `0x1`, `0x9` or `0xA`
to `0xF`; presented to a block that accepts commands it is recorded as `IllegalCommand` with FINFO = `c`,
and nothing else of the block changes. -/
def Obligations.IllegalWordTakesItsFault : Prop :=
  ∀ c : XWord,
    ((∃ e, decode (.cmd c) = .error e) ↔ c.toNat / 16 ≠ 0 ∨ c.toNat % 16 = 1 ∨ 9 ≤ c.toNat % 16) ∧
    ∀ s : State, Accepting s → c.toNat / 16 ≠ 0 ∨ c.toNat % 16 = 1 ∨ 9 ≤ c.toNat % 16 →
      ∃ t, hostAccess (.cmd c) s = .next t ∧ exec (.csrw 1 c) s = .next t ∧ FaultTaken .illegalCommand c s t

/-- R236: what fault entry writes, whatever the state, and that it leaves the rest as the raising step left
it. -/
def Obligations.FaultEntryWritesTheRecord : Prop :=
  ∀ (x : Cause) (info : XWord) (s : State), FaultTaken x info s (raise x info s)

/-- R238, R239: a faulted block keeps its fault record through every step but CLR and reset. -/
def Obligations.OnlyClrAndResetEndAFault : Prop :=
  ∀ s t, MachineInv s → s.status.fault = true → step s = .next t →
    (t.status.fault = true ∧ t.cause = s.cause ∧ t.finfo = s.finfo) ∨
      (∃ rest, s.turns = .access (.cmd 8) :: rest) ∨ (∃ rest, s.turns = .access (.write 1 8) :: rest) ∨
      (∃ pix pay rest, s.turns = .reset pix pay :: rest)

/-! ## Capacity -/

/-- R161, R206: CAP.P0 reports `floor(F/8) - 8` clamped at 0, with CAPNEG exactly when it is negative; it sets
DONE, clears NODATA, latches OPL and VARL, and leaves the rest. -/
def Obligations.CapP0ReportsCapacity : Prop :=
  ∀ s : State, Accepting s →
    ∃ t, exec .capP0 s = .next t ∧ t.capbytes.toNat = flatLength s / 8 - 8 ∧
      t.status = { s.status with
        done := true, nodata := false, capneg := decide (flatLength s < 64), opl := .cap, varl := .p0 } ∧
      SameRegistersBut [2, 11] s t ∧ SameMemories s t ∧ SameSurroundings s t

/-- R181, R206: CAP.MP reports `min(floor(PS/8) - 8, F - 9)` clamped at 0, for either pre-check; with the
sweep, the hardware specified, that is `F - 9`. -/
def Obligations.CapMpReportsCapacity : Prop :=
  ∀ s : State, Accepting s →
    ∃ t, exec .capMp s = .next t ∧
      t.capbytes.toNat = min (precheckSlots s / 8 - 8) (flatLength s - 9) ∧
      (s.cfg.mpPrecheckSlots = .sweep → t.capbytes.toNat = flatLength s - 9) ∧
      t.status = { s.status with
        done := true, nodata := false,
        capneg := decide (precheckSlots s / 8 < 8 ∨ flatLength s < 9), opl := .cap, varl := .mp } ∧
      SameRegistersBut [2, 11] s t ∧ SameMemories s t ∧ SameSurroundings s t

/-- R161, R162 ("encoding a payload of exactly `capacity(buffer)` bytes succeeds; encoding one byte more
fails"): after CAP.P0, an ENC.P0 with PLEN = `len` is accepted exactly when CAPNEG = 0 and
`len <= CAPBYTES`, and faults otherwise. -/
def Obligations.CapP0IsTheEncodeBoundary : Prop :=
  ∀ (s t u : State) (len : XWord), Accepting s → exec .capP0 s = .next t →
    exec .encP0 { t with plen := len } = .next u →
    (u.status.busy = true ↔ t.status.capneg = false ∧ len.toNat ≤ t.capbytes.toNat) ∧
      (u.status.busy = false → u.cause = .capacityError)

/-- R161, R206 ("two calls with identical inputs return identical results"): a capacity query repeated at
once leaves exactly the state the first one left, for either variant. -/
def Obligations.CapacityQueryIsIdempotent : Prop :=
  ∀ s t : State, Accepting s →
    (exec .capP0 s = .next t → exec .capP0 t = .next t) ∧
      (exec .capMp s = .next t → exec .capMp t = .next t)

/-! ## START -/

/-- R207, R162, R182: an encode whose frame fits starts: LENREG holds PLEN, the datapath is fresh. -/
def Obligations.EncodesStart : Prop :=
  ∀ s : State, Accepting s →
    (frameSlots s.plen.toNat ≤ flatLength s →
      ∃ t, exec .encP0 s = .next t ∧ StartedAs .enc .p0 s.plen s t) ∧
    (frameSlots s.plen.toNat ≤ precheckSlots s →
      ∃ t, exec .encMp s = .next t ∧ StartedAs .enc .mp s.plen s t)

/-- R207, R160, R188: a decode of a large enough buffer starts: LENREG is cleared, the datapath is fresh. -/
def Obligations.DecodesStart : Prop :=
  ∀ s : State, Accepting s →
    (64 ≤ flatLength s → ∃ t, exec .decP0 s = .next t ∧ StartedAs .dec .p0 0 s t) ∧
    (0 < flatLength s → ∃ t, exec .decMp s = .next t ∧ StartedAs .dec .mp 0 s t)

/-- R231, R207: exactly the other operands fault at START with `CapacityError` and FINFO = `F`, no memory
touched and the datapath fresh. -/
def Obligations.StartFaultsWithCapacityError : Prop :=
  ∀ s : State, Accepting s →
    let info : XWord := BitVec.ofNat 64 (flatLength s)
    (flatLength s < frameSlots s.plen.toNat →
      ∃ t, exec .encP0 s = .next t ∧ StartRefused .enc .p0 info s t) ∧
    (flatLength s < 64 → ∃ t, exec .decP0 s = .next t ∧ StartRefused .dec .p0 info s t) ∧
    (precheckSlots s < frameSlots s.plen.toNat →
      ∃ t, exec .encMp s = .next t ∧ StartRefused .enc .mp info s t) ∧
    (flatLength s = 0 → ∃ t, exec .decMp s = .next t ∧ StartRefused .dec .mp info s t)

/-! ## Framer and shifter -/

/-- R119: the frame is invertible. If slots hold `stream(L, p)`, `Deser64` of the first 64 returns `L` and `Pack8`
of the eight slots from `64 + 8*k` on returns `p[k]`, for every `k < L`. -/
def Obligations.FrameIsInvertible : Prop :=
  ∀ (len : Nat) (p : Nat → Byte) (slot : Nat → Bool), len < 2 ^ 64 →
    (∀ n, n < frameSlots len → slot n = streamBit len p n) →
    (deser64 ((List.range 64).map slot)).toNat = len ∧
      ∀ k, k < len → pack8 (slot (64 + 8 * k)) (slot (64 + 8 * k + 1)) (slot (64 + 8 * k + 2))
        (slot (64 + 8 * k + 3)) (slot (64 + 8 * k + 4)) (slot (64 + 8 * k + 5)) (slot (64 + 8 * k + 6))
        (slot (64 + 8 * k + 7)) = p k

/-- R115, R114: `Pack8` is `sum over j of b_j * 2^(7-j)`, `Ser8` has `b_j = v[7 - j]`, and they undo each
other. -/
def Obligations.PackAndSerialiseUndoEachOther : Prop :=
  (∀ b0 b1 b2 b3 b4 b5 b6 b7 : Bool,
    (pack8 b0 b1 b2 b3 b4 b5 b6 b7).toNat = b0.toNat * 2 ^ 7 + b1.toNat * 2 ^ 6 + b2.toNat * 2 ^ 5 +
        b3.toNat * 2 ^ 4 + b4.toNat * 2 ^ 3 + b5.toNat * 2 ^ 2 + b6.toNat * 2 + b7.toNat ∧
      ser8 (pack8 b0 b1 b2 b3 b4 b5 b6 b7) = [b0, b1, b2, b3, b4, b5, b6, b7]) ∧
  ∀ v : Byte,
    ser8 v = [v.getLsbD 7, v.getLsbD 6, v.getLsbD 5, v.getLsbD 4, v.getLsbD 3, v.getLsbD 2, v.getLsbD 1,
      v.getLsbD 0] ∧
    pack8 (v.getLsbD 7) (v.getLsbD 6) (v.getLsbD 5) (v.getLsbD 4) (v.getLsbD 3) (v.getLsbD 2) (v.getLsbD 1)
      (v.getLsbD 0) = v

/-- R118 ("its content at `j = 7` depends only on that byte's eight bits"): eight bits shifted into SHREG,
whatever it held, leave `Pack8` of them. -/
def Obligations.EightShiftsPackAByte : Prop :=
  ∀ (x : Byte) (b0 b1 b2 b3 b4 b5 b6 b7 : Bool),
    [b0, b1, b2, b3, b4, b5, b6, b7].foldl shiftIn x = pack8 b0 b1 b2 b3 b4 b5 b6 b7

/-! ## Sequencer and cursor -/

/-- R133: `PutBit.P0(b)` replaces bit 0 of the byte at offset SLOT, keeps bits 7 to 1, counts the slot, and
leaves every other byte and register. -/
def Obligations.PutBitP0ReplacesBitZero : Prop :=
  ∀ (s : State) (b : Bool), Memory.wf s.pix → s.slot.toNat < s.cfg.pixSize → s.slot.toNat < addressSpace →
    ∃ t, putBitP0 b s = .bit b t ∧
      (t.pix.read s.slot.toNat).getLsbD 0 = b ∧
      (∀ q, 1 ≤ q → (t.pix.read s.slot.toNat).getLsbD q = (s.pix.read s.slot.toNat).getLsbD q) ∧
      (∀ a, a ≠ s.slot.toNat → t.pix.read a = s.pix.read a) ∧
      t = { s with pix := t.pix, slot := s.slot + 1 }

/-- R135, R146: `PutBit.MP(b)` replaces only bit `plane_index` of the byte under the cursor, whether or not the
advance after it raises; then SLOT counts and the cursor moves. -/
def Obligations.PutBitMpReplacesThePlaneBit : Prop :=
  ∀ (s : State) (b : Bool), Memory.wf s.pix → cursorAddress s < s.cfg.pixSize →
    cursorAddress s < addressSpace →
    ∃ t, (putBitMp b s = .bit b t ∨ putBitMp b s = .exhausted t) ∧
      (putBitMp b s = .exhausted t ↔
        (advanceCursor { s with slot := s.slot + 1 }).2 = true) ∧
      (∀ q, q < 8 → (t.pix.read (cursorAddress s)).getLsbD q =
        if q = s.planeIndex.toNat then b else (s.pix.read (cursorAddress s)).getLsbD q) ∧
      (∀ a, a ≠ cursorAddress s → t.pix.read a = s.pix.read a) ∧
      t = { (advanceCursor { s with slot := s.slot + 1 }).1 with pix := t.pix }

/-- R134, R136: a `ReadBit` answers the addressed bit (bit 0 in Plane-0, bit `plane_index` in Multi-Plane), counts
the slot and writes no memory. -/
def Obligations.ReadBitAnswersTheAddressedBit : Prop :=
  ∀ s : State,
    (s.slot.toNat < s.cfg.pixSize → s.slot.toNat < addressSpace →
      readBitP0 s = .bit ((s.pix.read s.slot.toNat).getLsbD 0) { s with slot := s.slot + 1 }) ∧
    (cursorAddress s < s.cfg.pixSize → cursorAddress s < addressSpace →
      readBitMp s =
        (if (advanceCursor { s with slot := s.slot + 1 }).2
          then .exhausted (advanceCursor { s with slot := s.slot + 1 }).1
          else .bit ((s.pix.read (cursorAddress s)).getLsbD s.planeIndex.toNat)
            (advanceCursor { s with slot := s.slot + 1 }).1))

/-- R138, R139, R142, R147: with the cursor in range, `AdvanceCursor` moves the flat offset up by one inside a
plane, goes from the last offset to the origin of the next plane, and on plane 7 raises with the cursor at
the origin and `plane_index` still 7. Nothing but the cursor moves. -/
def Obligations.AdvanceCursorSweepsThePlanes : Prop :=
  ∀ s : State, s.curRow.toNat < s.height.toNat → s.curCol.toNat < s.width.toNat →
    s.curCh.toNat < s.channels.toNat →
    (cursorAddress s + 1 < flatLength s →
      (advanceCursor s).2 = false ∧ cursorAddress (advanceCursor s).1 = cursorAddress s + 1 ∧
      (advanceCursor s).1.planeIndex = s.planeIndex ∧
      (advanceCursor s).1.curRow.toNat < s.height.toNat ∧
      (advanceCursor s).1.curCol.toNat < s.width.toNat ∧
      (advanceCursor s).1.curCh.toNat < s.channels.toNat) ∧
    (cursorAddress s + 1 = flatLength s →
      (advanceCursor s).1.curRow = 0 ∧ (advanceCursor s).1.curCol = 0 ∧ (advanceCursor s).1.curCh = 0 ∧
      (s.planeIndex.toNat < 7 →
        (advanceCursor s).2 = false ∧
          (advanceCursor s).1.planeIndex.toNat = s.planeIndex.toNat + 1) ∧
      (s.planeIndex.toNat = 7 → (advanceCursor s).2 = true ∧ (advanceCursor s).1.planeIndex = 7)) ∧
    cursorAddress s < flatLength s ∧
    (advanceCursor s).1 = { s with
      curRow := (advanceCursor s).1.curRow, curCol := (advanceCursor s).1.curCol,
      curCh := (advanceCursor s).1.curCh, planeIndex := (advanceCursor s).1.planeIndex }

/-! ## The core step -/

/-- R212, R41, R29, R213: a core step of a running command counts exactly one slot and keeps the operands, the
latch and CAPNEG. -/
def Obligations.CoreStepCountsOneSlot : Prop :=
  ∀ s t : State, MachineInv s → s.status.busy = true → coreStep s = .next t →
    t.slot.toNat = s.slot.toNat + 1 ∧ SameOperands s t ∧ SameSurroundings s t ∧
      (s.status.opl = .enc → t.lenreg = s.lenreg)

/-- R62, R64, R164, R168: a core step of a decode never writes PIX and one of an encode never writes PAY, in
every state. -/
def Obligations.EachOperationWritesOneMemory : Prop :=
  ∀ s t : State, coreStep s = .next t →
    (s.status.opl = .dec → t.pix = s.pix) ∧ (s.status.opl = .enc → t.pay = s.pay)

/-- R62, R64, R206, R207: no instruction touches either memory itself; only core steps, the host's loads and
reset do. -/
def Obligations.InstructionsLeaveTheMemories : Prop :=
  ∀ (i : Instr) (s : State), ∃ t, exec i s = .next t ∧ t.pix = s.pix ∧ t.pay = s.pay

/-- R69, R140, R146, R212: a core step writes at most one bit of PIX, bit `plane_index` of the byte the slot
addresses (bit 0 in Plane-0). It writes PAY only on a decode at the last bit of a payload byte, and then
at most the byte the slot belongs to. -/
def Obligations.CoreStepWritesOnlyItsSlot : Prop :=
  ∀ s t : State, MachineInv s → s.status.busy = true → coreStep s = .next t →
    (∀ a, a ≠ slotAddress s → t.pix.read a = s.pix.read a) ∧
    (∀ q, q ≠ s.planeIndex.toNat →
      (t.pix.read (slotAddress s)).getLsbD q = (s.pix.read (slotAddress s)).getLsbD q) ∧
    (¬(s.status.opl = .dec ∧ s.status.phase = .body ∧ bodyBit s.slot.toNat = 7) → t.pay = s.pay) ∧
    (∀ k, k ≠ bodyByte s.slot.toNat → t.pay.read k = s.pay.read k)

/-- R72 (a) to (d): every channel byte a running command accesses lies in the buffer; the payload bytes an
encode reads are below its length, and that is below `F/8` in Plane-0 and below `F` in Multi-Plane; those
a decode writes are the first `maxP0` in Plane-0 and the first `F - 9` in Multi-Plane. So every index is
below `F`, and that is below `2^40`. -/
def Obligations.AccessesLieInTheBuffer : Prop :=
  ∀ s : State, MachineInv s → s.status.busy = true →
    slotAddress s < flatLength s ∧ flatLength s < 2 ^ 40 ∧
    (s.status.opl = .enc → s.status.phase = .body →
      bodyByte s.slot.toNat < s.plen.toNat ∧
      (s.status.varl = .p0 → (s.plen.toNat : Int) ≤ maxP0 s ∧ maxP0 s < (flatLength s / 8 : Nat)) ∧
      (s.status.varl = .mp → s.plen.toNat + 8 ≤ precheckSlots s / 8 ∧ s.plen.toNat < flatLength s)) ∧
    (s.status.opl = .dec → s.status.phase = .body → bodyBit s.slot.toNat = 7 →
      (s.status.varl = .p0 → (bodyByte s.slot.toNat : Int) + 1 ≤ maxP0 s) ∧
      (s.status.varl = .mp → s.slot.toNat + 1 ≠ sweepSlots s →
        bodyByte s.slot.toNat + 1 ≤ flatLength s - 9))

/-- R72, R73: a running command whose buffer and payload range the platform backs is never stuck. -/
def Obligations.BackedCommandIsNeverStuck : Prop :=
  ∀ s : State, MachineInv s → s.status.busy = true → PixBacked s (flatLength s) → PayBacked s (flatLength s) →
    ∃ t, coreStep s = .next t

/-- R73, D25: a core step that must access an unbacked byte has no successor. The channel byte of the slot: on a
decode, in the header, and in the body of an encode once its bit is at hand. The payload byte: on an encode
at `j = 0`, which loads it first (R212), and on a decode at `j = 7`, unless the slot is the last of a
Multi-Plane sweep, whose fault comes before the delivery (R140). -/
def Obligations.UnbackedAccessIsStuck : Prop :=
  ∀ s : State, MachineInv s → s.status.busy = true →
    (s.cfg.pixSize ≤ slotAddress s →
      s.status.opl = .dec ∨ s.status.phase = .hdr ∨ bodyBit s.slot.toNat ≠ 0 ∨
        bodyByte s.slot.toNat < s.cfg.paySize →
      coreStep s = .fault (.pixNotBacked (slotAddress s))) ∧
    (s.status.opl = .enc → s.status.phase = .body → bodyBit s.slot.toNat = 0 →
      s.cfg.paySize ≤ bodyByte s.slot.toNat →
      coreStep s = .fault (.payNotBacked (bodyByte s.slot.toNat))) ∧
    (s.status.opl = .dec → s.status.phase = .body → bodyBit s.slot.toNat = 7 →
      slotAddress s < s.cfg.pixSize → s.status.varl = .p0 ∨ s.slot.toNat + 1 ≠ sweepSlots s →
      s.cfg.paySize ≤ bodyByte s.slot.toNat →
      coreStep s = .fault (.payNotBacked (bodyByte s.slot.toNat)))

/-- R139, R184, R187, R232: a core step that raises a fault raises `CapacityExhausted`, on a Multi-Plane command
at slot `8*F - 1` only, and leaves the state of R139; a Plane-0 core step raises none. -/
def Obligations.OnlyTheLastSlotExhausts : Prop :=
  ∀ s t : State, MachineInv s → s.status.busy = true → coreStep s = .next t →
    (t.status.fault = true ↔ s.status.varl = .mp ∧ s.slot.toNat + 1 = sweepSlots s) ∧
      (t.status.fault = true → EndedExhausted (flatLength s) t)

/-- R214, R277: a running command on backed memory ends after at most as many steps as slots are left in the
sweep, provided the core is scheduled. R214: "Whether the core is ever scheduled, and how long a step
takes, the spec does not say: a model that needs "the command finishes" assumes weak fairness of the core."
Here that assumption is the model's own choice of log 3 (DESIGN CHOICE, unsafe for a claim that a command
ends): with no turn pending, a step of a busy block is a core step. -/
def Obligations.EveryCommandEnds : Prop :=
  ∀ s : State, MachineInv s → s.status.busy = true → Undisturbed s → PixBacked s (flatLength s) →
    PayBacked s (flatLength s) →
    ∃ n t, n + s.slot.toNat ≤ sweepSlots s ∧ RunsTo n s t ∧ t.status.busy = false

/-- R200: while a command runs, a host read before a core step and after it leave the same block: nothing of the
block depends on which agent goes first. -/
def Obligations.ReadsAndCoreStepsCommute : Prop :=
  ∀ (s : State) (n : Nat) (rest : List Turn) (t u : State), s.status.busy = true →
    RunsTo 2 { s with turns := .access (.read n) :: .core :: rest } t →
    RunsTo 2 { s with turns := .core :: .access (.read n) :: rest } u →
    u = { t with hostValue := u.hostValue }

/-! ## The host's memory accesses -/

/-- R70, R99: while the block is idle, bytes the host loads into a backed range of PIX or of PAY, and a fill of
PIX, read back. Every byte outside the range, the other memory and all registers stay, and the host holds
what the unload returned. For a host that has not yet observed BUSY = 0, where R267 gives the access no
defined result, this is the model's choice (log 19). -/
def Obligations.LoadedBytesReadBack : Prop :=
  ∀ (s : State) (a : Nat) (bytes : List Byte) (n : Nat) (v : Byte) (rest : List Turn),
    s.status.busy = false →
    (Memory.wf s.pix → a + bytes.length ≤ s.cfg.pixSize → a + bytes.length ≤ addressSpace →
      ∃ t, LoadsAndUnloads (.loadPix a bytes) (.readPix a bytes.length) rest bytes s t ∧ t.pay = s.pay ∧
        ∀ b, b < a ∨ a + bytes.length ≤ b → t.pix.read b = s.pix.read b) ∧
    (Memory.wf s.pix → a + n ≤ s.cfg.pixSize → a + n ≤ addressSpace →
      ∃ t, LoadsAndUnloads (.fillPix a n v) (.readPix a n) rest (List.replicate n v) s t ∧ t.pay = s.pay ∧
        ∀ b, b < a ∨ a + n ≤ b → t.pix.read b = s.pix.read b) ∧
    (Memory.wf s.pay → a + bytes.length ≤ s.cfg.paySize → a + bytes.length ≤ addressSpace →
      ∃ t, LoadsAndUnloads (.loadPay a bytes) (.readPay a bytes.length) rest bytes s t ∧ t.pix = s.pix ∧
        ∀ b, b < a ∨ a + bytes.length ≤ b → t.pay.read b = s.pay.read b)

/-- R80, I10: while BUSY = 1 the host has no load or unload of either memory (the model's refusal, log 7). -/
def Obligations.BusyBlockOwnsTheMemories : Prop :=
  ∀ (s : State) (a n : Nat) (v : Byte) (bytes : List Byte), s.status.busy = true →
    takeTurn (.loadPix a bytes) s = .refused .hostMemoryWhileBusy ∧
    takeTurn (.fillPix a n v) s = .refused .hostMemoryWhileBusy ∧
    takeTurn (.loadPay a bytes) s = .refused .hostMemoryWhileBusy ∧
    takeTurn (.readPix a n) s = .refused .hostMemoryWhileBusy ∧
    takeTurn (.readPay a n) s = .refused .hostMemoryWhileBusy

/-! ## Whole commands -/

/-- R163, R164, R169: ENC.P0 with a frame that fits, on backed memory and left alone, completes after exactly
`64 + 8*L` core steps with `encP0(pix, p)` in PIX, PAY untouched and the registers of R163. "Left alone"
is log 3: with no turn pending every step is the core's (DESIGN CHOICE; R214 leaves the scheduling open). -/
def Obligations.EncodeP0RunMeetsReference : Prop :=
  ∀ s : State, MachineInv s → Accepting s → Undisturbed s → frameSlots s.plen.toNat ≤ flatLength s →
    PixBacked s (frameSlots s.plen.toNat) → PayBacked s s.plen.toNat →
    ∃ t u, exec .encP0 s = .next t ∧ RunsTo (frameSlots s.plen.toNat) t u ∧ Completed u ∧
      u.status.nodata = false ∧
      (∀ a, u.pix.read a = referenceEncodeP0 s.pix.read s.plen.toNat s.pay.read a) ∧ u.pay = s.pay ∧
      u.slot.toNat = frameSlots s.plen.toNat ∧ u.lenreg = s.plen ∧ u.rlen = 0 ∧
      (0 < s.plen.toNat → u.shreg = 0) ∧
      u.curRow = 0 ∧ u.curCol = 0 ∧ u.curCh = 0 ∧ u.planeIndex = 0

/-- R165, R166, R167, R169: DEC.P0 on a buffer of at least 64 bytes, on backed memory and left alone, delivers
what `decP0(pix)` says: no data after 64 core steps with PAY untouched and the header in LENREG, or the
payload after `64 + 8*Lr` with LENREG = RLEN = `Lr` and its last byte in SHREG. PIX is never written and no
fault arises from what it holds. "Left alone" is log 3: with no turn pending every step is the core's
(DESIGN CHOICE; R214 leaves the scheduling open). -/
def Obligations.DecodeP0RunMeetsReference : Prop :=
  ∀ s : State, MachineInv s → Accepting s → Undisturbed s → 64 ≤ flatLength s → PixBacked s (flatLength s) →
    PayBacked s (flatLength s / 8 - 8) →
    ∃ t, exec .decP0 s = .next t ∧
      match referenceDecodeP0 (flatLength s) s.pix.read with
      | .noData => ∃ u, RunsTo 64 t u ∧ Completed u ∧ u.status.nodata = true ∧ u.rlen = 0 ∧
          u.pix = s.pix ∧ u.pay = s.pay ∧ u.slot.toNat = 64 ∧ u.shreg = 0 ∧ AtOrigin u ∧
          u.lenreg.toNat = bitsValue (fun a => (s.pix.read a).getLsbD 0) 0 64
      | .payload p => ∃ u, RunsTo (frameSlots p.length) t u ∧ Completed u ∧ u.status.nodata = false ∧
          Delivered p u ∧ u.pix = s.pix ∧ AtOrigin u ∧
          ∀ k, p.length ≤ k → u.pay.read k = s.pay.read k
      | .exhausted => False

/-- R170, with the step counts of R169: for every `F >= 64`, every buffer and every payload of up to `maxP0`
bytes, DEC.P0 of what ENC.P0 left recovers the payload, whatever PAY holds when the decode starts. The
empty payload writes 64 zero bits and comes back as NODATA = 1 with RLEN = 0; any other comes back with
NODATA = 0. With no turn pending every step is the core's: log 3 (DESIGN CHOICE; R214 leaves the scheduling
open). -/
def Obligations.RoundTripP0 : Prop :=
  ∀ (s : State) (pay : Memory), MachineInv s → Accepting s → Undisturbed s →
    frameSlots s.plen.toNat ≤ flatLength s → PixBacked s (flatLength s) →
    PayBacked s (flatLength s) → Memory.wf pay →
    ∃ t u v w, exec .encP0 s = .next t ∧ RunsTo (frameSlots s.plen.toNat) t u ∧ Completed u ∧
      exec .decP0 { u with pay := pay } = .next v ∧ RunsTo (frameSlots s.plen.toNat) v w ∧ Completed w ∧
      (w.status.nodata = true ↔ s.plen = 0) ∧ w.rlen = s.plen ∧
      payloadBytes w s.plen.toNat = payloadBytes s s.plen.toNat ∧
      (s.plen = 0 → ∀ a, a < 64 → (u.pix.read a).getLsbD 0 = false)

/-- R183, R189: ENC.MP with a frame that passes the pre-check and leaves at least one slot of the sweep free, on
backed memory and left alone, completes after exactly `64 + 8*L` core steps: bit `q` of byte `a` of the
buffer is that of `encMP(pix, p)`, every byte beyond the buffer and PAY are untouched, and the registers are
those of R183. "Left alone" is log 3: with no turn pending every step is the core's (DESIGN CHOICE; R214
leaves the scheduling open). -/
def Obligations.EncodeMpRunMeetsReference : Prop :=
  ∀ s : State, MachineInv s → Accepting s → Undisturbed s → frameSlots s.plen.toNat ≤ precheckSlots s →
    frameSlots s.plen.toNat < sweepSlots s → PixBacked s (flatLength s) → PayBacked s s.plen.toNat →
    ∃ t u, exec .encMp s = .next t ∧ RunsTo (frameSlots s.plen.toNat) t u ∧ Completed u ∧
      u.status.nodata = false ∧
      (∀ a q, a < flatLength s → q < 8 → (u.pix.read a).getLsbD q =
        referenceEncodeMpBit (flatLength s) s.pix.read s.plen.toNat s.pay.read a q) ∧
      (∀ a, flatLength s ≤ a → u.pix.read a = s.pix.read a) ∧ u.pay = s.pay ∧
      u.slot.toNat = frameSlots s.plen.toNat ∧ u.lenreg = s.plen ∧ u.rlen = 0 ∧
      (0 < s.plen.toNat → u.shreg = 0) ∧ CursorAtSlot u

/-- R184, R271, R148: ENC.MP of a frame that fills the sweep exactly (`L = F - 8`), on backed memory and left
alone, writes every slot and then faults with `CapacityExhausted`, after exactly `8*F` core steps, with
LENREG = `L` and SHREG 0. "Left alone" is log 3: with no turn pending every step is the core's (DESIGN
CHOICE; R214 leaves the scheduling open). -/
def Obligations.EncodeMpOfTheFullSweepFaults : Prop :=
  ∀ s : State, MachineInv s → Accepting s → Undisturbed s → s.cfg.mpPrecheckSlots = .sweep →
    8 ≤ flatLength s → s.plen.toNat + 8 = flatLength s → PixBacked s (flatLength s) →
    PayBacked s s.plen.toNat →
    ∃ t u, exec .encMp s = .next t ∧ RunsTo (sweepSlots s) t u ∧ EndedExhausted (flatLength s) u ∧
      (∀ a q, a < flatLength s → q < 8 →
        (u.pix.read a).getLsbD q = streamBit s.plen.toNat s.pay.read (q * flatLength s + a)) ∧
      (∀ a, flatLength s ≤ a → u.pix.read a = s.pix.read a) ∧ u.pay = s.pay ∧
      u.lenreg = s.plen ∧ u.shreg = 0

/-- R185, R186, R187, R189: DEC.MP of a buffer with at least one byte, on backed memory and left alone, delivers
what `decMP(pix)` says: no data after 64 core steps with LENREG 0; the payload after `64 + 8*Lr` with
LENREG = RLEN = `Lr` and its last byte in SHREG; or `CapacityExhausted` after `8*F` with the first `F - 9`
bytes written (none for `F <= 8`), LENREG the header or, for `F <= 8`, the `8*F - 1` bits received, and SHREG
the 7 bits of the unfinished byte below bit 0 of the last complete one. PIX is never written. "Left alone"
is log 3: with no turn pending every step is the core's (DESIGN CHOICE; R214 leaves the scheduling open). -/
def Obligations.DecodeMpRunMeetsReference : Prop :=
  ∀ s : State, MachineInv s → Accepting s → Undisturbed s → 0 < flatLength s → PixBacked s (flatLength s) →
    PayBacked s (flatLength s - 9) →
    ∃ t, exec .decMp s = .next t ∧
      match referenceDecodeMp (flatLength s) s.pix.read with
      | .noData => ∃ u, RunsTo 64 t u ∧ Completed u ∧ u.status.nodata = true ∧ u.rlen = 0 ∧
          u.pix = s.pix ∧ u.pay = s.pay ∧ u.slot.toNat = 64 ∧ u.lenreg = 0 ∧ u.shreg = 0 ∧ CursorAtSlot u
      | .payload p => ∃ u, RunsTo (frameSlots p.length) t u ∧ Completed u ∧ u.status.nodata = false ∧
          Delivered p u ∧ u.pix = s.pix ∧ CursorAtSlot u ∧
          ∀ k, p.length ≤ k → u.pay.read k = s.pay.read k
      | .exhausted => ∃ u, RunsTo (sweepSlots s) t u ∧ EndedExhausted (flatLength s) u ∧ u.pix = s.pix ∧
          payloadBytes u (flatLength s - 9) =
            payloadOf (mpSlotBit (flatLength s) s.pix.read) (flatLength s - 9) ∧
          (∀ k, flatLength s - 9 ≤ k → u.pay.read k = s.pay.read k) ∧
          u.lenreg.toNat =
            bitsValue (mpSlotBit (flatLength s) s.pix.read) 0 (min 64 (sweepSlots s - 1)) ∧
          u.shreg.toNat =
            (if flatLength s ≤ 8 then 0
              else if flatLength s = 9 then bitsValue (mpSlotBit (flatLength s) s.pix.read) 64 7
              else bitsValue (mpSlotBit (flatLength s) s.pix.read) (sweepSlots s - 9) 8)

/-- R190, with the step counts of R189: for every buffer and every payload that passes the pre-check and
leaves a slot free (`L <= min(floor(PS/8) - 8, F - 9)`), ENC.MP completes and DEC.MP of what it left recovers
the payload, whatever PAY holds when the decode starts. The empty payload (`F >= 9`) writes 64 zero bits and
comes back as NODATA = 1 with RLEN = 0; any other comes back with NODATA = 0. With no turn pending every
step is the core's: log 3 (DESIGN CHOICE; R214 leaves the scheduling open). -/
def Obligations.RoundTripMp : Prop :=
  ∀ (s : State) (pay : Memory), MachineInv s → Accepting s → Undisturbed s →
    s.plen.toNat + 8 ≤ precheckSlots s / 8 → s.plen.toNat + 9 ≤ flatLength s →
    PixBacked s (flatLength s) → PayBacked s (flatLength s) → Memory.wf pay →
    ∃ t u v w, exec .encMp s = .next t ∧ RunsTo (frameSlots s.plen.toNat) t u ∧ Completed u ∧
      exec .decMp { u with pay := pay } = .next v ∧ RunsTo (frameSlots s.plen.toNat) v w ∧ Completed w ∧
      (w.status.nodata = true ↔ s.plen = 0) ∧ w.rlen = s.plen ∧
      payloadBytes w s.plen.toNat = payloadBytes s s.plen.toNat ∧
      (s.plen = 0 → ∀ n, n < 64 → mpSlotBit (flatLength s) u.pix.read n = false)

/-- R191: a frame that fits in plane 0 is placed identically by both variants: ENC.P0 and ENC.MP from one state
leave equal PIX contents. With no turn pending every step is the core's: log 3 (DESIGN CHOICE; R214 leaves
the scheduling open). -/
def Obligations.VariantsAgreeInPlaneZero : Prop :=
  ∀ s : State, MachineInv s → Accepting s → Undisturbed s → frameSlots s.plen.toNat ≤ flatLength s →
    PixBacked s (flatLength s) → PayBacked s (flatLength s) →
    ∃ t u v w, exec .encP0 s = .next t ∧ RunsTo (frameSlots s.plen.toNat) t u ∧ Completed u ∧
      exec .encMp s = .next v ∧ RunsTo (frameSlots s.plen.toNat) v w ∧ Completed w ∧ u.pix = w.pix

/-- R191: on one buffer of at least 64 bytes the two decoders agree when the header spells 0 or a value up to
`maxP0`, and when it spells more Plane-0 reports no data while Multi-Plane does not. -/
def Obligations.DecodersAgreeUpToMaxP0 : Prop :=
  ∀ (f : Nat) (pix : Nat → Byte), 64 ≤ f →
    let len := bitsValue (fun a => (pix a).getLsbD 0) 0 64
    (len ≤ f / 8 - 8 → referenceDecodeP0 f pix = referenceDecodeMp f pix) ∧
      (f / 8 - 8 < len → referenceDecodeP0 f pix = .noData ∧ referenceDecodeMp f pix ≠ .noData)
end

