-- ==== Sys2Proof/Laws/Memory.lean ====
section
/-! SUPPORT. The laws of a memory: what a read answers after a write, that every operation keeps the
canonical form, and that equal contents are equal data. -/

namespace Sys2Proof.Machine

@[simp] theorem Memory.read_nil (a : Nat) : Memory.read [] a = unlisted := rfl

@[simp] theorem Memory.read_cons (c : Host.Cell) (m : Memory) (a : Nat) :
    Memory.read (c :: m) a = if c.1 = a then c.2 else Memory.read m a := rfl

theorem Memory.read_put_same {a : Nat} {v : Byte} {m : Memory}
    (h : Memory.read m a = unlisted) : Memory.read (Memory.put a v m) a = v := by
  unfold Memory.put
  split
  · next hv => rw [h, hv]
  · simp

theorem Memory.read_put_other {a b : Nat} {v : Byte} {m : Memory} (h : a ≠ b) :
    Memory.read (Memory.put a v m) b = Memory.read m b := by
  unfold Memory.put
  split
  · rfl
  · simp [h]

/-- An address below every listed one, or not listed at all, reads as unlisted. -/
theorem Memory.read_of_not_listed {m : Memory} {a : Nat} (h : ∀ c ∈ m, c.1 ≠ a) :
    Memory.read m a = unlisted := by
  induction m with
  | nil => rfl
  | cons c m ih =>
    simp only [Memory.read_cons]
    rw [if_neg (h c (by simp))]
    exact ih fun d hd => h d (by simp [hd])

/-- A write leaves every other address alone, whatever the form of the memory. -/
theorem Memory.read_write_other {m : Memory} {a b : Nat} {v : Byte} (h : a ≠ b) :
    Memory.read (Memory.write m a v) b = Memory.read m b := by
  induction m with
  | nil => simp [Memory.write, Memory.read_put_other h]
  | cons c m ih =>
    simp only [Memory.write]
    split
    · simp [ih]
    · split
      · next he => simp [Memory.read_put_other h, he, h]
      · simp [Memory.read_put_other h]

/-- A write is read back. -/
theorem Memory.read_write_same {m : Memory} {a : Nat} {v : Byte} (hm : Memory.wf m) :
    Memory.read (Memory.write m a v) a = v := by
  obtain ⟨hs, -⟩ := hm
  induction m with
  | nil => exact Memory.read_put_same rfl
  | cons c m ih =>
    obtain ⟨hlt, hs⟩ := List.pairwise_cons.1 hs
    simp only [Memory.write]
    split
    · next hc => simp [Nat.ne_of_lt hc, ih hs]
    · split
      · next he =>
        exact Memory.read_put_same (Memory.read_of_not_listed fun d hd => by
          have := hlt d hd; omega)
      · next hc he =>
        refine Memory.read_put_same (Memory.read_of_not_listed fun d hd => ?_)
        rcases List.mem_cons.1 hd with rfl | hd
        · exact he
        · have := hlt d hd; omega

/-- What a read answers after a write. -/
theorem Memory.read_write {m : Memory} {a b : Nat} {v : Byte} (hm : Memory.wf m) :
    Memory.read (Memory.write m a v) b = if a = b then v else Memory.read m b := by
  split
  · next h => subst h; exact Memory.read_write_same hm
  · next h => exact Memory.read_write_other h

theorem Memory.wf_nil : Memory.wf [] := ⟨.nil, by simp⟩

theorem Memory.wf_put {a : Nat} {v : Byte} {m : Memory} (hm : Memory.wf m) (ha : a < addressSpace)
    (hlow : ∀ c ∈ m, a < c.1) : Memory.wf (Memory.put a v m) := by
  unfold Memory.put
  split
  · exact hm
  · next hv =>
    refine ⟨List.pairwise_cons.2 ⟨hlow, hm.1⟩, fun c hc => ?_⟩
    rcases List.mem_cons.1 hc with rfl | hc
    · exact ⟨ha, hv⟩
    · exact hm.2 c hc

theorem Memory.mem_put {a : Nat} {v : Byte} {m : Memory} {c : Host.Cell}
    (h : c ∈ Memory.put a v m) : c.1 = a ∨ c ∈ m := by
  unfold Memory.put at h
  split at h
  · exact .inr h
  · rcases List.mem_cons.1 h with rfl | h
    · exact .inl rfl
    · exact .inr h

theorem Memory.mem_write {m : Memory} {a : Nat} {v : Byte} {c : Host.Cell}
    (h : c ∈ Memory.write m a v) : c.1 = a ∨ c ∈ m := by
  induction m with
  | nil => exact Memory.mem_put h
  | cons d m ih =>
    simp only [Memory.write] at h
    split at h
    · rcases List.mem_cons.1 h with rfl | h
      · exact .inr (by simp)
      · exact (ih h).imp_right (by simp +contextual)
    · split at h
      · exact (Memory.mem_put h).imp_right (by simp +contextual)
      · exact Memory.mem_put h

/-- A write inside the space keeps the canonical form. -/
theorem Memory.wf_write {m : Memory} {a : Nat} {v : Byte} (hm : Memory.wf m) (ha : a < addressSpace) :
    Memory.wf (Memory.write m a v) := by
  induction m with
  | nil => exact Memory.wf_put hm ha (by simp)
  | cons c m ih =>
    obtain ⟨hs, hc⟩ := hm
    obtain ⟨hlt, hs⟩ := List.pairwise_cons.1 hs
    have hm : Memory.wf m := ⟨hs, fun d hd => hc d (by simp [hd])⟩
    simp only [Memory.write]
    split
    · next hca =>
      refine ⟨List.pairwise_cons.2 ⟨fun d hd => ?_, (ih hm).1⟩, fun d hd => ?_⟩
      · rcases Memory.mem_write hd with rfl | hd
        · exact hca
        · exact hlt d hd
      · rcases List.mem_cons.1 hd with rfl | hd
        · exact hc _ (by simp)
        · exact (ih hm).2 d hd
    · split
      · next he => exact Memory.wf_put hm ha fun d hd => he ▸ hlt d hd
      · next hn he =>
        refine Memory.wf_put ⟨List.pairwise_cons.2 ⟨hlt, hs⟩, hc⟩ ha fun d hd => ?_
        rcases List.mem_cons.1 hd with rfl | hd
        · omega
        · have := hlt d hd; omega

/-- A load of bytes inside the space keeps the canonical form. -/
theorem Memory.wf_writeBytes {bytes : List Byte} {m : Memory} {a : Nat} (hm : Memory.wf m)
    (ha : bytes = [] ∨ a + bytes.length ≤ addressSpace) : Memory.wf (Memory.writeBytes m a bytes) := by
  induction bytes generalizing m a with
  | nil => exact hm
  | cons v vs ih =>
    have hle : a + (vs.length + 1) ≤ addressSpace := by simpa using ha
    refine ih (Memory.wf_write hm (by omega)) ?_
    rcases vs with - | ⟨w, ws⟩
    · exact .inl rfl
    · exact .inr (by simp only [List.length_cons] at *; omega)

/-- What a byte reads as after a load. -/
theorem Memory.read_writeBytes {bytes : List Byte} {m : Memory} {a b : Nat} (hm : Memory.wf m)
    (ha : bytes = [] ∨ a + bytes.length ≤ addressSpace) :
    Memory.read (Memory.writeBytes m a bytes) b =
      if a ≤ b ∧ b < a + bytes.length then bytes.getD (b - a) 0 else Memory.read m b := by
  induction bytes generalizing m a with
  | nil =>
    have : ¬(a ≤ b ∧ b < a + ([] : List Byte).length) := by simp
    rw [if_neg this]; rfl
  | cons v vs ih =>
    have hle : a + (vs.length + 1) ≤ addressSpace := by simpa using ha
    have hvs : vs = [] ∨ a + 1 + vs.length ≤ addressSpace := .inr (by omega)
    simp only [Memory.writeBytes]
    rw [ih (Memory.wf_write hm (by omega)) hvs, Memory.read_write hm]
    by_cases h : a = b
    · subst h; simp
    · by_cases h1 : a + 1 ≤ b ∧ b < a + 1 + vs.length
      · have hb : b - a = (b - (a + 1)) + 1 := by omega
        rw [if_pos h1, if_pos (by simp only [List.length_cons]; omega), hb]
        simp
      · rw [if_neg h1, if_neg h, if_neg (by simp only [List.length_cons]; omega)]

/-- Bytes loaded into a range are unloaded from it. -/
theorem Memory.readBytes_writeBytes {bytes : List Byte} {m : Memory} {a : Nat} (hm : Memory.wf m)
    (ha : a + bytes.length ≤ addressSpace) :
    (Memory.writeBytes m a bytes).readBytes a bytes.length = bytes := by
  apply List.ext_getElem
  · simp [Memory.readBytes]
  · intro i h1 h2
    simp [Memory.readBytes, Memory.read_writeBytes hm (.inr ha), h2]

/-- The memory a list of cells spells is canonical. -/
theorem Memory.wf_ofCells (cells : List Host.Cell) : Memory.wf (Memory.ofCells cells) := by
  induction cells with
  | nil => exact Memory.wf_nil
  | cons c cells ih =>
    simp only [Memory.ofCells]
    split
    · next h => exact Memory.wf_write ih h
    · exact ih

/-- Canonical memories with equal contents are equal data. -/
theorem Memory.eq_of_read_eq {m n : Memory} (hm : Memory.wf m) (hn : Memory.wf n)
    (h : ∀ a, Memory.read m a = Memory.read n a) : m = n := by
  induction m generalizing n with
  | nil =>
    cases n with
    | nil => rfl
    | cons d n => exact absurd (by simpa using (h d.1).symm) (hn.2 d (by simp)).2
  | cons c m ih =>
    cases n with
    | nil => exact absurd (by simpa using h c.1) (hm.2 c (by simp)).2
    | cons d n =>
      obtain ⟨hcm, hms⟩ := List.pairwise_cons.1 hm.1
      obtain ⟨hdn, hns⟩ := List.pairwise_cons.1 hn.1
      have hc := (hm.2 c (by simp)).2
      have hd := (hn.2 d (by simp)).2
      have hfree (k : Host.Cell) (l : Memory) (hl : ∀ e ∈ l, k.1 < e.1) (a : Nat) (ha : a ≤ k.1) :
          Memory.read l a = unlisted :=
        Memory.read_of_not_listed fun e he => by have := hl e he; omega
      have hkey : c.1 = d.1 := by
        rcases Nat.lt_trichotomy c.1 d.1 with hlt | heq | hgt
        · have h1 := h c.1
          rw [Memory.read_cons, if_pos rfl, Memory.read_cons, if_neg (by omega),
            hfree d n hdn c.1 (by omega)] at h1
          exact absurd h1 hc
        · exact heq
        · have h1 := h d.1
          rw [Memory.read_cons, if_neg (by omega), hfree c m hcm d.1 (by omega), Memory.read_cons,
            if_pos rfl] at h1
          exact absurd h1.symm hd
      have hval : c.2 = d.2 := by simpa [hkey] using h c.1
      have hcd : c = d := Prod.ext hkey hval
      subst hcd
      refine congrArg (c :: ·) (ih ⟨hms, fun e he => hm.2 e (by simp [he])⟩
        ⟨hns, fun e he => hn.2 e (by simp [he])⟩ fun a => ?_)
      by_cases ha : c.1 = a
      · subst ha
        rw [hfree c m hcm _ le_rfl, hfree c n hdn _ le_rfl]
      · simpa [ha] using h a

end Sys2Proof.Machine
end

