-- ==== Sys2Proof/Laws/Operands.lean ====
section
/-! SUPPORT. The bits of a channel byte after a change of one bit, the bits the masks select, and the
arithmetic of slots. -/

namespace Sys2Proof.Machine

theorem maskOne_eq_twoPow (p : BitVec 3) : maskOne p = BitVec.twoPow 8 p.toNat := by
  revert p; decide

theorem getLsbD_maskOne (p : BitVec 3) (q : Nat) : (maskOne p).getLsbD q = decide (q = p.toNat) := by
  rw [maskOne_eq_twoPow, BitVec.getLsbD_twoPow]
  have := p.isLt
  by_cases h : q = p.toNat <;> simp [h] <;> omega

theorem getLsbD_maskZero (p : BitVec 3) {q : Nat} (hq : q < 8) :
    (maskZero p).getLsbD q = !decide (q = p.toNat) := by
  have h : (0xFF#8 : Byte).getLsbD q = true := by interval_cases q <;> rfl
  rw [maskZero, BitVec.getLsbD_and, BitVec.getLsbD_not, getLsbD_maskOne, h]
  simp [hq]

theorem getLsbD_bitWord {w : Nat} (hw : 0 < w) (b : Bool) (q : Nat) :
    (bitWord w b).getLsbD q = (decide (q = 0) && b) := by
  unfold bitWord
  rcases q with - | q
  · simp [hw]
  · simp

/-- `(v & 0xFE) | b` changes bit 0 only. -/
theorem getLsbD_withBit0 (v : Byte) (b : Bool) (q : Nat) :
    (withBit0 v b).getLsbD q = if q = 0 then b else v.getLsbD q := by
  rw [withBit0, BitVec.getLsbD_or, BitVec.getLsbD_and, getLsbD_bitWord (by decide)]
  by_cases hq : q < 8
  · interval_cases q <;> simp
  · simp [v.getLsbD_of_ge q (by omega), show q ≠ 0 by omega]

/-- Setting or clearing through the masks changes bit `plane_index` only. -/
theorem getLsbD_withPlaneBit (p : BitVec 3) (v : Byte) (b : Bool) (q : Nat) :
    (withPlaneBit p v b).getLsbD q = if q = p.toNat then b else v.getLsbD q := by
  have := p.isLt
  cases b
  · simp only [withPlaneBit, Bool.false_eq_true, ↓reduceIte, BitVec.getLsbD_and]
    by_cases hq : q < 8
    · rw [getLsbD_maskZero p hq]
      by_cases h : q = p.toNat <;> simp [h]
    · simp [v.getLsbD_of_ge q (by omega)]
  · simp only [withPlaneBit, ↓reduceIte, BitVec.getLsbD_or, getLsbD_maskOne]
    by_cases h : q = p.toNat <;> simp [h]

/-- Reading through the mask answers bit `plane_index`. -/
theorem planeBit_eq_getLsbD (p : BitVec 3) (v : Byte) : planeBit p v = v.getLsbD p.toNat := by
  have hp : BitVec.twoPow 8 p.toNat ≠ 0#8 := by revert p; decide
  rw [planeBit, maskOne_eq_twoPow, BitVec.and_twoPow]
  cases v.getLsbD p.toNat <;> simp [hp]

/-- The plane-0 pair of masks does what `(v & 0xFE) | b` does. -/
theorem withPlaneBit_zero (v : Byte) (b : Bool) : withPlaneBit 0 v b = withBit0 v b := by
  apply BitVec.eq_of_getLsbD_eq
  intro q _
  rw [getLsbD_withPlaneBit, getLsbD_withBit0]
  rfl

theorem addressSpace_eq : addressSpace = 1099511627776 := by norm_num [addressSpace]

theorem flatLength_lt (s : State) : flatLength s < addressSpace := by
  have h := s.height.isLt
  have w := s.width.isLt
  have c := s.channels.isLt
  unfold flatLength addressSpace
  calc s.height.toNat * s.width.toNat * s.channels.toNat
      ≤ (2 ^ 16 - 1) * (2 ^ 16 - 1) * (2 ^ 8 - 1) := by gcongr <;> omega
    _ < 2 ^ 40 := by norm_num

theorem flatLength_le_precheckSlots (s : State) : flatLength s ≤ precheckSlots s := by
  unfold precheckSlots sweepSlots; split <;> omega

theorem precheckSlots_le_sweepSlots (s : State) : precheckSlots s ≤ sweepSlots s := by
  unfold precheckSlots sweepSlots; split <;> omega

theorem frame64Check_toNat (v : XWord) : frame64Check v.toNat = none := by
  simp [frame64Check, v.isLt]

theorem slot_eq_of_body {n : Nat} (h : 64 ≤ n) : n = 64 + 8 * bodyByte n + bodyBit n := by
  unfold bodyByte bodyBit; omega

theorem bodyBit_lt (n : Nat) : bodyBit n < 8 := Nat.mod_lt _ (by decide)

end Sys2Proof.Machine
end

