-- ==== Sys2Proof/Laws/State.lean ====
section
/-! SUPPORT. What each named update of the state does to each field, so that no proof unfolds a record
update. Every lemma is true by unfolding its one definition. -/

namespace Sys2Proof.Machine

section StatusFields

variable (st : Status)

@[simp] theorem status_afterCap_busy (v : Variant) (c : Int) : (st.afterCap v c).busy = st.busy := rfl
@[simp] theorem status_afterCap_done (v : Variant) (c : Int) : (st.afterCap v c).done = true := rfl
@[simp] theorem status_afterCap_fault (v : Variant) (c : Int) : (st.afterCap v c).fault = st.fault := rfl
@[simp] theorem status_afterCap_nodata (v : Variant) (c : Int) : (st.afterCap v c).nodata = false := rfl
@[simp] theorem status_afterCap_capneg (v : Variant) (c : Int) : (st.afterCap v c).capneg = decide (c < 0) := rfl
@[simp] theorem status_afterCap_phase (v : Variant) (c : Int) : (st.afterCap v c).phase = st.phase := rfl
@[simp] theorem status_afterCap_opl (v : Variant) (c : Int) : (st.afterCap v c).opl = .cap := rfl
@[simp] theorem status_afterCap_varl (v : Variant) (c : Int) : (st.afterCap v c).varl = v := rfl

@[simp] theorem status_latched_busy (o : Operation) (v : Variant) : (st.latched o v).busy = st.busy := rfl
@[simp] theorem status_latched_done (o : Operation) (v : Variant) : (st.latched o v).done = false := rfl
@[simp] theorem status_latched_fault (o : Operation) (v : Variant) : (st.latched o v).fault = st.fault := rfl
@[simp] theorem status_latched_nodata (o : Operation) (v : Variant) : (st.latched o v).nodata = false := rfl
@[simp] theorem status_latched_capneg (o : Operation) (v : Variant) : (st.latched o v).capneg = st.capneg := rfl
@[simp] theorem status_latched_phase (o : Operation) (v : Variant) : (st.latched o v).phase = st.phase := rfl
@[simp] theorem status_latched_opl (o : Operation) (v : Variant) : (st.latched o v).opl = o := rfl
@[simp] theorem status_latched_varl (o : Operation) (v : Variant) : (st.latched o v).varl = v := rfl

@[simp] theorem status_started_busy : (st.started).busy = true := rfl
@[simp] theorem status_started_done : (st.started).done = st.done := rfl
@[simp] theorem status_started_fault : (st.started).fault = st.fault := rfl
@[simp] theorem status_started_nodata : (st.started).nodata = st.nodata := rfl
@[simp] theorem status_started_capneg : (st.started).capneg = st.capneg := rfl
@[simp] theorem status_started_phase : (st.started).phase = .hdr := rfl
@[simp] theorem status_started_opl : (st.started).opl = st.opl := rfl
@[simp] theorem status_started_varl : (st.started).varl = st.varl := rfl

@[simp] theorem status_completed_busy : (st.completed).busy = false := rfl
@[simp] theorem status_completed_done : (st.completed).done = true := rfl
@[simp] theorem status_completed_fault : (st.completed).fault = st.fault := rfl
@[simp] theorem status_completed_nodata : (st.completed).nodata = st.nodata := rfl
@[simp] theorem status_completed_capneg : (st.completed).capneg = st.capneg := rfl
@[simp] theorem status_completed_phase : (st.completed).phase = .idle := rfl
@[simp] theorem status_completed_opl : (st.completed).opl = st.opl := rfl
@[simp] theorem status_completed_varl : (st.completed).varl = st.varl := rfl

@[simp] theorem status_faulted_busy : (st.faulted).busy = false := rfl
@[simp] theorem status_faulted_done : (st.faulted).done = false := rfl
@[simp] theorem status_faulted_fault : (st.faulted).fault = true := rfl
@[simp] theorem status_faulted_nodata : (st.faulted).nodata = false := rfl
@[simp] theorem status_faulted_capneg : (st.faulted).capneg = st.capneg := rfl
@[simp] theorem status_faulted_phase : (st.faulted).phase = .idle := rfl
@[simp] theorem status_faulted_opl : (st.faulted).opl = st.opl := rfl
@[simp] theorem status_faulted_varl : (st.faulted).varl = st.varl := rfl

@[simp] theorem status_cleared_busy : (st.cleared).busy = st.busy := rfl
@[simp] theorem status_cleared_done : (st.cleared).done = false := rfl
@[simp] theorem status_cleared_fault : (st.cleared).fault = false := rfl
@[simp] theorem status_cleared_nodata : (st.cleared).nodata = false := rfl
@[simp] theorem status_cleared_capneg : (st.cleared).capneg = false := rfl
@[simp] theorem status_cleared_phase : (st.cleared).phase = st.phase := rfl
@[simp] theorem status_cleared_opl : (st.cleared).opl = st.opl := rfl
@[simp] theorem status_cleared_varl : (st.cleared).varl = st.varl := rfl

end StatusFields

section StateFields

variable (s : State)

@[simp] theorem raise_status (x : Cause) (i : XWord) : (raise x i s).status = s.status.faulted := rfl
@[simp] theorem raise_cause (x : Cause) (i : XWord) : (raise x i s).cause = x := rfl
@[simp] theorem raise_finfo (x : Cause) (i : XWord) : (raise x i s).finfo = i := rfl
@[simp] theorem raise_height (x : Cause) (i : XWord) : (raise x i s).height = s.height := rfl
@[simp] theorem raise_width (x : Cause) (i : XWord) : (raise x i s).width = s.width := rfl
@[simp] theorem raise_channels (x : Cause) (i : XWord) : (raise x i s).channels = s.channels := rfl
@[simp] theorem raise_plen (x : Cause) (i : XWord) : (raise x i s).plen = s.plen := rfl
@[simp] theorem raise_rlen (x : Cause) (i : XWord) : (raise x i s).rlen = 0 := rfl
@[simp] theorem raise_lenreg (x : Cause) (i : XWord) : (raise x i s).lenreg = s.lenreg := rfl
@[simp] theorem raise_capbytes (x : Cause) (i : XWord) : (raise x i s).capbytes = s.capbytes := rfl
@[simp] theorem raise_curRow (x : Cause) (i : XWord) : (raise x i s).curRow = s.curRow := rfl
@[simp] theorem raise_curCol (x : Cause) (i : XWord) : (raise x i s).curCol = s.curCol := rfl
@[simp] theorem raise_curCh (x : Cause) (i : XWord) : (raise x i s).curCh = s.curCh := rfl
@[simp] theorem raise_planeIndex (x : Cause) (i : XWord) : (raise x i s).planeIndex = s.planeIndex := rfl
@[simp] theorem raise_slot (x : Cause) (i : XWord) : (raise x i s).slot = s.slot := rfl
@[simp] theorem raise_shreg (x : Cause) (i : XWord) : (raise x i s).shreg = s.shreg := rfl
@[simp] theorem raise_pix (x : Cause) (i : XWord) : (raise x i s).pix = s.pix := rfl
@[simp] theorem raise_pay (x : Cause) (i : XWord) : (raise x i s).pay = s.pay := rfl
@[simp] theorem raise_cfg (x : Cause) (i : XWord) : (raise x i s).cfg = s.cfg := rfl
@[simp] theorem raise_turns (x : Cause) (i : XWord) : (raise x i s).turns = s.turns := rfl
@[simp] theorem raise_hostValue (x : Cause) (i : XWord) : (raise x i s).hostValue = s.hostValue := rfl
@[simp] theorem raise_hostBytes (x : Cause) (i : XWord) : (raise x i s).hostBytes = s.hostBytes := rfl

@[simp] theorem clearRecord_status : (clearRecord s).status = s.status.cleared := rfl
@[simp] theorem clearRecord_cause : (clearRecord s).cause = .none := rfl
@[simp] theorem clearRecord_finfo : (clearRecord s).finfo = 0 := rfl
@[simp] theorem clearRecord_height : (clearRecord s).height = s.height := rfl
@[simp] theorem clearRecord_width : (clearRecord s).width = s.width := rfl
@[simp] theorem clearRecord_channels : (clearRecord s).channels = s.channels := rfl
@[simp] theorem clearRecord_plen : (clearRecord s).plen = s.plen := rfl
@[simp] theorem clearRecord_rlen : (clearRecord s).rlen = s.rlen := rfl
@[simp] theorem clearRecord_lenreg : (clearRecord s).lenreg = s.lenreg := rfl
@[simp] theorem clearRecord_capbytes : (clearRecord s).capbytes = s.capbytes := rfl
@[simp] theorem clearRecord_curRow : (clearRecord s).curRow = s.curRow := rfl
@[simp] theorem clearRecord_curCol : (clearRecord s).curCol = s.curCol := rfl
@[simp] theorem clearRecord_curCh : (clearRecord s).curCh = s.curCh := rfl
@[simp] theorem clearRecord_planeIndex : (clearRecord s).planeIndex = s.planeIndex := rfl
@[simp] theorem clearRecord_slot : (clearRecord s).slot = s.slot := rfl
@[simp] theorem clearRecord_shreg : (clearRecord s).shreg = s.shreg := rfl
@[simp] theorem clearRecord_pix : (clearRecord s).pix = s.pix := rfl
@[simp] theorem clearRecord_pay : (clearRecord s).pay = s.pay := rfl
@[simp] theorem clearRecord_cfg : (clearRecord s).cfg = s.cfg := rfl
@[simp] theorem clearRecord_turns : (clearRecord s).turns = s.turns := rfl
@[simp] theorem clearRecord_hostValue : (clearRecord s).hostValue = s.hostValue := rfl
@[simp] theorem clearRecord_hostBytes : (clearRecord s).hostBytes = s.hostBytes := rfl

@[simp] theorem complete_status : (complete s).status = s.status.completed := rfl
@[simp] theorem complete_cause : (complete s).cause = s.cause := rfl
@[simp] theorem complete_finfo : (complete s).finfo = s.finfo := rfl
@[simp] theorem complete_height : (complete s).height = s.height := rfl
@[simp] theorem complete_width : (complete s).width = s.width := rfl
@[simp] theorem complete_channels : (complete s).channels = s.channels := rfl
@[simp] theorem complete_plen : (complete s).plen = s.plen := rfl
@[simp] theorem complete_rlen : (complete s).rlen = s.rlen := rfl
@[simp] theorem complete_lenreg : (complete s).lenreg = s.lenreg := rfl
@[simp] theorem complete_capbytes : (complete s).capbytes = s.capbytes := rfl
@[simp] theorem complete_curRow : (complete s).curRow = s.curRow := rfl
@[simp] theorem complete_curCol : (complete s).curCol = s.curCol := rfl
@[simp] theorem complete_curCh : (complete s).curCh = s.curCh := rfl
@[simp] theorem complete_planeIndex : (complete s).planeIndex = s.planeIndex := rfl
@[simp] theorem complete_slot : (complete s).slot = s.slot := rfl
@[simp] theorem complete_shreg : (complete s).shreg = s.shreg := rfl
@[simp] theorem complete_pix : (complete s).pix = s.pix := rfl
@[simp] theorem complete_pay : (complete s).pay = s.pay := rfl
@[simp] theorem complete_cfg : (complete s).cfg = s.cfg := rfl
@[simp] theorem complete_turns : (complete s).turns = s.turns := rfl
@[simp] theorem complete_hostValue : (complete s).hostValue = s.hostValue := rfl
@[simp] theorem complete_hostBytes : (complete s).hostBytes = s.hostBytes := rfl

@[simp] theorem capacity_status (v : Variant) (c : Int) : (capacity v c s).status = s.status.afterCap v c := rfl
@[simp] theorem capacity_cause (v : Variant) (c : Int) : (capacity v c s).cause = s.cause := rfl
@[simp] theorem capacity_finfo (v : Variant) (c : Int) : (capacity v c s).finfo = s.finfo := rfl
@[simp] theorem capacity_height (v : Variant) (c : Int) : (capacity v c s).height = s.height := rfl
@[simp] theorem capacity_width (v : Variant) (c : Int) : (capacity v c s).width = s.width := rfl
@[simp] theorem capacity_channels (v : Variant) (c : Int) : (capacity v c s).channels = s.channels := rfl
@[simp] theorem capacity_plen (v : Variant) (c : Int) : (capacity v c s).plen = s.plen := rfl
@[simp] theorem capacity_rlen (v : Variant) (c : Int) : (capacity v c s).rlen = s.rlen := rfl
@[simp] theorem capacity_lenreg (v : Variant) (c : Int) : (capacity v c s).lenreg = s.lenreg := rfl
@[simp] theorem capacity_capbytes (v : Variant) (c : Int) : (capacity v c s).capbytes = BitVec.ofNat 64 c.toNat := rfl
@[simp] theorem capacity_curRow (v : Variant) (c : Int) : (capacity v c s).curRow = s.curRow := rfl
@[simp] theorem capacity_curCol (v : Variant) (c : Int) : (capacity v c s).curCol = s.curCol := rfl
@[simp] theorem capacity_curCh (v : Variant) (c : Int) : (capacity v c s).curCh = s.curCh := rfl
@[simp] theorem capacity_planeIndex (v : Variant) (c : Int) : (capacity v c s).planeIndex = s.planeIndex := rfl
@[simp] theorem capacity_slot (v : Variant) (c : Int) : (capacity v c s).slot = s.slot := rfl
@[simp] theorem capacity_shreg (v : Variant) (c : Int) : (capacity v c s).shreg = s.shreg := rfl
@[simp] theorem capacity_pix (v : Variant) (c : Int) : (capacity v c s).pix = s.pix := rfl
@[simp] theorem capacity_pay (v : Variant) (c : Int) : (capacity v c s).pay = s.pay := rfl
@[simp] theorem capacity_cfg (v : Variant) (c : Int) : (capacity v c s).cfg = s.cfg := rfl
@[simp] theorem capacity_turns (v : Variant) (c : Int) : (capacity v c s).turns = s.turns := rfl
@[simp] theorem capacity_hostValue (v : Variant) (c : Int) : (capacity v c s).hostValue = s.hostValue := rfl
@[simp] theorem capacity_hostBytes (v : Variant) (c : Int) : (capacity v c s).hostBytes = s.hostBytes := rfl

@[simp] theorem startReset_status (o : Operation) (v : Variant) : (startReset o v s).status = s.status.latched o v := rfl
@[simp] theorem startReset_cause (o : Operation) (v : Variant) : (startReset o v s).cause = s.cause := rfl
@[simp] theorem startReset_finfo (o : Operation) (v : Variant) : (startReset o v s).finfo = s.finfo := rfl
@[simp] theorem startReset_height (o : Operation) (v : Variant) : (startReset o v s).height = s.height := rfl
@[simp] theorem startReset_width (o : Operation) (v : Variant) : (startReset o v s).width = s.width := rfl
@[simp] theorem startReset_channels (o : Operation) (v : Variant) : (startReset o v s).channels = s.channels := rfl
@[simp] theorem startReset_plen (o : Operation) (v : Variant) : (startReset o v s).plen = s.plen := rfl
@[simp] theorem startReset_rlen (o : Operation) (v : Variant) : (startReset o v s).rlen = 0 := rfl
@[simp] theorem startReset_lenreg (o : Operation) (v : Variant) : (startReset o v s).lenreg = 0 := rfl
@[simp] theorem startReset_capbytes (o : Operation) (v : Variant) : (startReset o v s).capbytes = s.capbytes := rfl
@[simp] theorem startReset_curRow (o : Operation) (v : Variant) : (startReset o v s).curRow = 0 := rfl
@[simp] theorem startReset_curCol (o : Operation) (v : Variant) : (startReset o v s).curCol = 0 := rfl
@[simp] theorem startReset_curCh (o : Operation) (v : Variant) : (startReset o v s).curCh = 0 := rfl
@[simp] theorem startReset_planeIndex (o : Operation) (v : Variant) : (startReset o v s).planeIndex = 0 := rfl
@[simp] theorem startReset_slot (o : Operation) (v : Variant) : (startReset o v s).slot = 0 := rfl
@[simp] theorem startReset_shreg (o : Operation) (v : Variant) : (startReset o v s).shreg = 0 := rfl
@[simp] theorem startReset_pix (o : Operation) (v : Variant) : (startReset o v s).pix = s.pix := rfl
@[simp] theorem startReset_pay (o : Operation) (v : Variant) : (startReset o v s).pay = s.pay := rfl
@[simp] theorem startReset_cfg (o : Operation) (v : Variant) : (startReset o v s).cfg = s.cfg := rfl
@[simp] theorem startReset_turns (o : Operation) (v : Variant) : (startReset o v s).turns = s.turns := rfl
@[simp] theorem startReset_hostValue (o : Operation) (v : Variant) : (startReset o v s).hostValue = s.hostValue := rfl
@[simp] theorem startReset_hostBytes (o : Operation) (v : Variant) : (startReset o v s).hostBytes = s.hostBytes := rfl

@[simp] theorem startGo_status (o : Operation) : (startGo o s).status = s.status.started := rfl
@[simp] theorem startGo_cause (o : Operation) : (startGo o s).cause = s.cause := rfl
@[simp] theorem startGo_finfo (o : Operation) : (startGo o s).finfo = s.finfo := rfl
@[simp] theorem startGo_height (o : Operation) : (startGo o s).height = s.height := rfl
@[simp] theorem startGo_width (o : Operation) : (startGo o s).width = s.width := rfl
@[simp] theorem startGo_channels (o : Operation) : (startGo o s).channels = s.channels := rfl
@[simp] theorem startGo_plen (o : Operation) : (startGo o s).plen = s.plen := rfl
@[simp] theorem startGo_rlen (o : Operation) : (startGo o s).rlen = s.rlen := rfl
@[simp] theorem startGo_lenreg (o : Operation) : (startGo o s).lenreg = if o = .enc then s.plen else s.lenreg := rfl
@[simp] theorem startGo_capbytes (o : Operation) : (startGo o s).capbytes = s.capbytes := rfl
@[simp] theorem startGo_curRow (o : Operation) : (startGo o s).curRow = s.curRow := rfl
@[simp] theorem startGo_curCol (o : Operation) : (startGo o s).curCol = s.curCol := rfl
@[simp] theorem startGo_curCh (o : Operation) : (startGo o s).curCh = s.curCh := rfl
@[simp] theorem startGo_planeIndex (o : Operation) : (startGo o s).planeIndex = s.planeIndex := rfl
@[simp] theorem startGo_slot (o : Operation) : (startGo o s).slot = s.slot := rfl
@[simp] theorem startGo_shreg (o : Operation) : (startGo o s).shreg = s.shreg := rfl
@[simp] theorem startGo_pix (o : Operation) : (startGo o s).pix = s.pix := rfl
@[simp] theorem startGo_pay (o : Operation) : (startGo o s).pay = s.pay := rfl
@[simp] theorem startGo_cfg (o : Operation) : (startGo o s).cfg = s.cfg := rfl
@[simp] theorem startGo_turns (o : Operation) : (startGo o s).turns = s.turns := rfl
@[simp] theorem startGo_hostValue (o : Operation) : (startGo o s).hostValue = s.hostValue := rfl
@[simp] theorem startGo_hostBytes (o : Operation) : (startGo o s).hostBytes = s.hostBytes := rfl

@[simp] theorem nextSlot_status : (nextSlot s).status = s.status := rfl
@[simp] theorem nextSlot_cause : (nextSlot s).cause = s.cause := rfl
@[simp] theorem nextSlot_finfo : (nextSlot s).finfo = s.finfo := rfl
@[simp] theorem nextSlot_height : (nextSlot s).height = s.height := rfl
@[simp] theorem nextSlot_width : (nextSlot s).width = s.width := rfl
@[simp] theorem nextSlot_channels : (nextSlot s).channels = s.channels := rfl
@[simp] theorem nextSlot_plen : (nextSlot s).plen = s.plen := rfl
@[simp] theorem nextSlot_rlen : (nextSlot s).rlen = s.rlen := rfl
@[simp] theorem nextSlot_lenreg : (nextSlot s).lenreg = s.lenreg := rfl
@[simp] theorem nextSlot_capbytes : (nextSlot s).capbytes = s.capbytes := rfl
@[simp] theorem nextSlot_curRow : (nextSlot s).curRow = s.curRow := rfl
@[simp] theorem nextSlot_curCol : (nextSlot s).curCol = s.curCol := rfl
@[simp] theorem nextSlot_curCh : (nextSlot s).curCh = s.curCh := rfl
@[simp] theorem nextSlot_planeIndex : (nextSlot s).planeIndex = s.planeIndex := rfl
@[simp] theorem nextSlot_slot : (nextSlot s).slot = s.slot + 1 := rfl
@[simp] theorem nextSlot_shreg : (nextSlot s).shreg = s.shreg := rfl
@[simp] theorem nextSlot_pix : (nextSlot s).pix = s.pix := rfl
@[simp] theorem nextSlot_pay : (nextSlot s).pay = s.pay := rfl
@[simp] theorem nextSlot_cfg : (nextSlot s).cfg = s.cfg := rfl
@[simp] theorem nextSlot_turns : (nextSlot s).turns = s.turns := rfl
@[simp] theorem nextSlot_hostValue : (nextSlot s).hostValue = s.hostValue := rfl
@[simp] theorem nextSlot_hostBytes : (nextSlot s).hostBytes = s.hostBytes := rfl

@[simp] theorem enterBody_status : (enterBody s).status = { s.status with phase := .body } := rfl
@[simp] theorem enterBody_cause : (enterBody s).cause = s.cause := rfl
@[simp] theorem enterBody_finfo : (enterBody s).finfo = s.finfo := rfl
@[simp] theorem enterBody_height : (enterBody s).height = s.height := rfl
@[simp] theorem enterBody_width : (enterBody s).width = s.width := rfl
@[simp] theorem enterBody_channels : (enterBody s).channels = s.channels := rfl
@[simp] theorem enterBody_plen : (enterBody s).plen = s.plen := rfl
@[simp] theorem enterBody_rlen : (enterBody s).rlen = s.rlen := rfl
@[simp] theorem enterBody_lenreg : (enterBody s).lenreg = s.lenreg := rfl
@[simp] theorem enterBody_capbytes : (enterBody s).capbytes = s.capbytes := rfl
@[simp] theorem enterBody_curRow : (enterBody s).curRow = s.curRow := rfl
@[simp] theorem enterBody_curCol : (enterBody s).curCol = s.curCol := rfl
@[simp] theorem enterBody_curCh : (enterBody s).curCh = s.curCh := rfl
@[simp] theorem enterBody_planeIndex : (enterBody s).planeIndex = s.planeIndex := rfl
@[simp] theorem enterBody_slot : (enterBody s).slot = s.slot := rfl
@[simp] theorem enterBody_shreg : (enterBody s).shreg = s.shreg := rfl
@[simp] theorem enterBody_pix : (enterBody s).pix = s.pix := rfl
@[simp] theorem enterBody_pay : (enterBody s).pay = s.pay := rfl
@[simp] theorem enterBody_cfg : (enterBody s).cfg = s.cfg := rfl
@[simp] theorem enterBody_turns : (enterBody s).turns = s.turns := rfl
@[simp] theorem enterBody_hostValue : (enterBody s).hostValue = s.hostValue := rfl
@[simp] theorem enterBody_hostBytes : (enterBody s).hostBytes = s.hostBytes := rfl

@[simp] theorem completeNoData_status : (completeNoData s).status = Status.completed { s.status with nodata := true } := rfl
@[simp] theorem completeNoData_cause : (completeNoData s).cause = s.cause := rfl
@[simp] theorem completeNoData_finfo : (completeNoData s).finfo = s.finfo := rfl
@[simp] theorem completeNoData_height : (completeNoData s).height = s.height := rfl
@[simp] theorem completeNoData_width : (completeNoData s).width = s.width := rfl
@[simp] theorem completeNoData_channels : (completeNoData s).channels = s.channels := rfl
@[simp] theorem completeNoData_plen : (completeNoData s).plen = s.plen := rfl
@[simp] theorem completeNoData_rlen : (completeNoData s).rlen = 0 := rfl
@[simp] theorem completeNoData_lenreg : (completeNoData s).lenreg = s.lenreg := rfl
@[simp] theorem completeNoData_capbytes : (completeNoData s).capbytes = s.capbytes := rfl
@[simp] theorem completeNoData_curRow : (completeNoData s).curRow = s.curRow := rfl
@[simp] theorem completeNoData_curCol : (completeNoData s).curCol = s.curCol := rfl
@[simp] theorem completeNoData_curCh : (completeNoData s).curCh = s.curCh := rfl
@[simp] theorem completeNoData_planeIndex : (completeNoData s).planeIndex = s.planeIndex := rfl
@[simp] theorem completeNoData_slot : (completeNoData s).slot = s.slot := rfl
@[simp] theorem completeNoData_shreg : (completeNoData s).shreg = s.shreg := rfl
@[simp] theorem completeNoData_pix : (completeNoData s).pix = s.pix := rfl
@[simp] theorem completeNoData_pay : (completeNoData s).pay = s.pay := rfl
@[simp] theorem completeNoData_cfg : (completeNoData s).cfg = s.cfg := rfl
@[simp] theorem completeNoData_turns : (completeNoData s).turns = s.turns := rfl
@[simp] theorem completeNoData_hostValue : (completeNoData s).hostValue = s.hostValue := rfl
@[simp] theorem completeNoData_hostBytes : (completeNoData s).hostBytes = s.hostBytes := rfl

@[simp] theorem completeWithData_status : (completeWithData s).status = Status.completed { s.status with nodata := false } := rfl
@[simp] theorem completeWithData_cause : (completeWithData s).cause = s.cause := rfl
@[simp] theorem completeWithData_finfo : (completeWithData s).finfo = s.finfo := rfl
@[simp] theorem completeWithData_height : (completeWithData s).height = s.height := rfl
@[simp] theorem completeWithData_width : (completeWithData s).width = s.width := rfl
@[simp] theorem completeWithData_channels : (completeWithData s).channels = s.channels := rfl
@[simp] theorem completeWithData_plen : (completeWithData s).plen = s.plen := rfl
@[simp] theorem completeWithData_rlen : (completeWithData s).rlen = s.lenreg := rfl
@[simp] theorem completeWithData_lenreg : (completeWithData s).lenreg = s.lenreg := rfl
@[simp] theorem completeWithData_capbytes : (completeWithData s).capbytes = s.capbytes := rfl
@[simp] theorem completeWithData_curRow : (completeWithData s).curRow = s.curRow := rfl
@[simp] theorem completeWithData_curCol : (completeWithData s).curCol = s.curCol := rfl
@[simp] theorem completeWithData_curCh : (completeWithData s).curCh = s.curCh := rfl
@[simp] theorem completeWithData_planeIndex : (completeWithData s).planeIndex = s.planeIndex := rfl
@[simp] theorem completeWithData_slot : (completeWithData s).slot = s.slot := rfl
@[simp] theorem completeWithData_shreg : (completeWithData s).shreg = s.shreg := rfl
@[simp] theorem completeWithData_pix : (completeWithData s).pix = s.pix := rfl
@[simp] theorem completeWithData_pay : (completeWithData s).pay = s.pay := rfl
@[simp] theorem completeWithData_cfg : (completeWithData s).cfg = s.cfg := rfl
@[simp] theorem completeWithData_turns : (completeWithData s).turns = s.turns := rfl
@[simp] theorem completeWithData_hostValue : (completeWithData s).hostValue = s.hostValue := rfl
@[simp] theorem completeWithData_hostBytes : (completeWithData s).hostBytes = s.hostBytes := rfl

@[simp] theorem raiseExhausted_status : (raiseExhausted s).status = s.status.faulted := rfl
@[simp] theorem raiseExhausted_cause : (raiseExhausted s).cause = .capacityExhausted := rfl
@[simp] theorem raiseExhausted_finfo : (raiseExhausted s).finfo = s.slot.setWidth 64 := rfl
@[simp] theorem raiseExhausted_height : (raiseExhausted s).height = s.height := rfl
@[simp] theorem raiseExhausted_width : (raiseExhausted s).width = s.width := rfl
@[simp] theorem raiseExhausted_channels : (raiseExhausted s).channels = s.channels := rfl
@[simp] theorem raiseExhausted_plen : (raiseExhausted s).plen = s.plen := rfl
@[simp] theorem raiseExhausted_rlen : (raiseExhausted s).rlen = 0 := rfl
@[simp] theorem raiseExhausted_lenreg : (raiseExhausted s).lenreg = s.lenreg := rfl
@[simp] theorem raiseExhausted_capbytes : (raiseExhausted s).capbytes = s.capbytes := rfl
@[simp] theorem raiseExhausted_curRow : (raiseExhausted s).curRow = s.curRow := rfl
@[simp] theorem raiseExhausted_curCol : (raiseExhausted s).curCol = s.curCol := rfl
@[simp] theorem raiseExhausted_curCh : (raiseExhausted s).curCh = s.curCh := rfl
@[simp] theorem raiseExhausted_planeIndex : (raiseExhausted s).planeIndex = s.planeIndex := rfl
@[simp] theorem raiseExhausted_slot : (raiseExhausted s).slot = s.slot := rfl
@[simp] theorem raiseExhausted_shreg : (raiseExhausted s).shreg = s.shreg := rfl
@[simp] theorem raiseExhausted_pix : (raiseExhausted s).pix = s.pix := rfl
@[simp] theorem raiseExhausted_pay : (raiseExhausted s).pay = s.pay := rfl
@[simp] theorem raiseExhausted_cfg : (raiseExhausted s).cfg = s.cfg := rfl
@[simp] theorem raiseExhausted_turns : (raiseExhausted s).turns = s.turns := rfl
@[simp] theorem raiseExhausted_hostValue : (raiseExhausted s).hostValue = s.hostValue := rfl
@[simp] theorem raiseExhausted_hostBytes : (raiseExhausted s).hostBytes = s.hostBytes := rfl

@[simp] theorem pushCommandWord_status (n w : Nat) : (pushCommandWord n w s).status = s.status := rfl
@[simp] theorem pushCommandWord_cause (n w : Nat) : (pushCommandWord n w s).cause = s.cause := rfl
@[simp] theorem pushCommandWord_finfo (n w : Nat) : (pushCommandWord n w s).finfo = s.finfo := rfl
@[simp] theorem pushCommandWord_height (n w : Nat) : (pushCommandWord n w s).height = s.height := rfl
@[simp] theorem pushCommandWord_width (n w : Nat) : (pushCommandWord n w s).width = s.width := rfl
@[simp] theorem pushCommandWord_channels (n w : Nat) : (pushCommandWord n w s).channels = s.channels := rfl
@[simp] theorem pushCommandWord_plen (n w : Nat) : (pushCommandWord n w s).plen = s.plen := rfl
@[simp] theorem pushCommandWord_rlen (n w : Nat) : (pushCommandWord n w s).rlen = s.rlen := rfl
@[simp] theorem pushCommandWord_lenreg (n w : Nat) : (pushCommandWord n w s).lenreg = s.lenreg := rfl
@[simp] theorem pushCommandWord_capbytes (n w : Nat) : (pushCommandWord n w s).capbytes = s.capbytes := rfl
@[simp] theorem pushCommandWord_curRow (n w : Nat) : (pushCommandWord n w s).curRow = s.curRow := rfl
@[simp] theorem pushCommandWord_curCol (n w : Nat) : (pushCommandWord n w s).curCol = s.curCol := rfl
@[simp] theorem pushCommandWord_curCh (n w : Nat) : (pushCommandWord n w s).curCh = s.curCh := rfl
@[simp] theorem pushCommandWord_planeIndex (n w : Nat) : (pushCommandWord n w s).planeIndex = s.planeIndex := rfl
@[simp] theorem pushCommandWord_slot (n w : Nat) : (pushCommandWord n w s).slot = s.slot := rfl
@[simp] theorem pushCommandWord_shreg (n w : Nat) : (pushCommandWord n w s).shreg = s.shreg := rfl
@[simp] theorem pushCommandWord_pix (n w : Nat) : (pushCommandWord n w s).pix = s.pix := rfl
@[simp] theorem pushCommandWord_pay (n w : Nat) : (pushCommandWord n w s).pay = s.pay := rfl
@[simp] theorem pushCommandWord_cfg (n w : Nat) : (pushCommandWord n w s).cfg = s.cfg := rfl
@[simp] theorem pushCommandWord_turns (n w : Nat) : (pushCommandWord n w s).turns = .access (.cmd (BitVec.ofNat 64 (w % 2 ^ n))) :: s.turns := rfl
@[simp] theorem pushCommandWord_hostValue (n w : Nat) : (pushCommandWord n w s).hostValue = s.hostValue := rfl
@[simp] theorem pushCommandWord_hostBytes (n w : Nat) : (pushCommandWord n w s).hostBytes = s.hostBytes := rfl

@[simp] theorem resetBlock_status (p q : List Host.Cell) : (resetBlock p q s).status = Status.reset := rfl
@[simp] theorem resetBlock_cause (p q : List Host.Cell) : (resetBlock p q s).cause = .none := rfl
@[simp] theorem resetBlock_finfo (p q : List Host.Cell) : (resetBlock p q s).finfo = 0 := rfl
@[simp] theorem resetBlock_height (p q : List Host.Cell) : (resetBlock p q s).height = 0 := rfl
@[simp] theorem resetBlock_width (p q : List Host.Cell) : (resetBlock p q s).width = 0 := rfl
@[simp] theorem resetBlock_channels (p q : List Host.Cell) : (resetBlock p q s).channels = 0 := rfl
@[simp] theorem resetBlock_plen (p q : List Host.Cell) : (resetBlock p q s).plen = 0 := rfl
@[simp] theorem resetBlock_rlen (p q : List Host.Cell) : (resetBlock p q s).rlen = 0 := rfl
@[simp] theorem resetBlock_lenreg (p q : List Host.Cell) : (resetBlock p q s).lenreg = 0 := rfl
@[simp] theorem resetBlock_capbytes (p q : List Host.Cell) : (resetBlock p q s).capbytes = 0 := rfl
@[simp] theorem resetBlock_curRow (p q : List Host.Cell) : (resetBlock p q s).curRow = 0 := rfl
@[simp] theorem resetBlock_curCol (p q : List Host.Cell) : (resetBlock p q s).curCol = 0 := rfl
@[simp] theorem resetBlock_curCh (p q : List Host.Cell) : (resetBlock p q s).curCh = 0 := rfl
@[simp] theorem resetBlock_planeIndex (p q : List Host.Cell) : (resetBlock p q s).planeIndex = 0 := rfl
@[simp] theorem resetBlock_slot (p q : List Host.Cell) : (resetBlock p q s).slot = 0 := rfl
@[simp] theorem resetBlock_shreg (p q : List Host.Cell) : (resetBlock p q s).shreg = 0 := rfl
@[simp] theorem resetBlock_pix (p q : List Host.Cell) : (resetBlock p q s).pix = Memory.ofCells p := rfl
@[simp] theorem resetBlock_pay (p q : List Host.Cell) : (resetBlock p q s).pay = Memory.ofCells q := rfl
@[simp] theorem resetBlock_cfg (p q : List Host.Cell) : (resetBlock p q s).cfg = s.cfg := rfl
@[simp] theorem resetBlock_turns (p q : List Host.Cell) : (resetBlock p q s).turns = s.turns := rfl
@[simp] theorem resetBlock_hostValue (p q : List Host.Cell) : (resetBlock p q s).hostValue = s.hostValue := rfl
@[simp] theorem resetBlock_hostBytes (p q : List Host.Cell) : (resetBlock p q s).hostBytes = s.hostBytes := rfl

end StateFields

end Sys2Proof.Machine
end

