-- ==== Sys2Proof/Laws/Ops.lean ====
section
/-! SUPPORT. What the shared operations do, each said once: the byte accesses, the command port, START and
its checks. -/

namespace Sys2Proof.Machine

theorem backed_one {size a : Nat} : backed size a 1 = true ↔ a < size ∧ a < addressSpace := by
  simp [backed]

theorem backed_iff {size a n : Nat} :
    backed size a n = true ↔ n = 0 ∨ a + n ≤ size ∧ a + n ≤ addressSpace := by
  simp [backed]

/-! ### Byte accesses -/

theorem pixRead_ok {s : State} {a : Nat} {v : Byte} :
    pixRead s a = .ok v ↔ (a < s.cfg.pixSize ∧ a < addressSpace) ∧ v = s.pix.read a := by
  rw [← backed_one, pixRead]
  split
  · next h => simp only [h, true_and, Except.ok.injEq]; exact eq_comm
  · next h => simp [h]

theorem pixWrite_ok {s t : State} {a : Nat} {v : Byte} :
    pixWrite s a v = .ok t ↔
      (a < s.cfg.pixSize ∧ a < addressSpace) ∧ t = { s with pix := s.pix.write a v } := by
  rw [← backed_one, pixWrite]
  split
  · next h => simp only [h, true_and, Except.ok.injEq]; exact eq_comm
  · next h => simp [h]

theorem payRead_ok {s : State} {i : Nat} {v : Byte} :
    payRead s i = .ok v ↔ (i < s.cfg.paySize ∧ i < addressSpace) ∧ v = s.pay.read i := by
  rw [← backed_one, payRead]
  split
  · next h => simp only [h, true_and, Except.ok.injEq]; exact eq_comm
  · next h => simp [h]

theorem payWrite_ok {s t : State} {i : Nat} {v : Byte} :
    payWrite s i v = .ok t ↔
      (i < s.cfg.paySize ∧ i < addressSpace) ∧ t = { s with pay := s.pay.write i v } := by
  rw [← backed_one, payWrite]
  split
  · next h => simp only [h, true_and, Except.ok.injEq]; exact eq_comm
  · next h => simp [h]

theorem pixRead_unbacked {s : State} {a : Nat} (h : ¬(a < s.cfg.pixSize ∧ a < addressSpace)) :
    pixRead s a = .error (.pixNotBacked a) := by
  rw [← backed_one] at h; simp [pixRead, h]

theorem payRead_unbacked {s : State} {i : Nat} (h : ¬(i < s.cfg.paySize ∧ i < addressSpace)) :
    payRead s i = .error (.payNotBacked i) := by
  rw [← backed_one] at h; simp [payRead, h]

theorem payWrite_unbacked {s : State} {i : Nat} {v : Byte}
    (h : ¬(i < s.cfg.paySize ∧ i < addressSpace)) : payWrite s i v = .error (.payNotBacked i) := by
  rw [← backed_one] at h; simp [payWrite, h]

/-! ### The command port -/

theorem commandPort_busy {b : Bool} {f : State → State} {s : State} (h : s.status.busy = true) :
    commandPort b f s = .next s := by simp [commandPort, h]

theorem commandPort_faulted {f : State → State} {s : State} (h : s.status.fault = true) :
    commandPort false f s = .next s := by simp [commandPort, h]

theorem commandPort_accepting {b : Bool} {f : State → State} {s : State} (h : Accepting s) :
    commandPort b f s = .next (f s) := by simp [commandPort, h.1, h.2]

theorem commandPort_always {f : State → State} {s : State} (h : s.status.busy = false) :
    commandPort true f s = .next (f s) := by simp [commandPort, h]

/-- Everything the command port can answer. -/
theorem commandPort_cases (b : Bool) (f : State → State) (s : State) :
    commandPort b f s = .next s ∨
      s.status.busy = false ∧ (s.status.fault = true → b = true) ∧ commandPort b f s = .next (f s) := by
  unfold commandPort
  cases hb : s.status.busy <;> cases hf : s.status.fault <;> cases b <;> simp

/-! ### START -/

/-- START never meets the framer's check: PLEN has 64 bits (spec/60_exceptions.md R233). -/
theorem framerCheck_none (op : Operation) (s : State) : framerCheck op s = none := by
  cases op <;> simp [framerCheck, frame64Check_toNat]

theorem constructFails_iff (s : State) : constructFails s = true ↔ flatLength s < 64 := by
  simp [constructFails, maxP0]; omega

theorem encodeP0Fails_iff (s : State) :
    encodeP0Fails s = true ↔ flatLength s < frameSlots s.plen.toNat := by simp [encodeP0Fails]

theorem encodeMpFails_iff (s : State) :
    encodeMpFails s = true ↔ precheckSlots s < frameSlots s.plen.toNat := by simp [encodeMpFails]

theorem zeroSize_iff (s : State) : zeroSize s = true ↔ flatLength s = 0 := by simp [zeroSize]

theorem startCheck_encP0 (s : State) :
    startCheck .enc .p0 s = if flatLength s < frameSlots s.plen.toNat
      then some (.capacityError, BitVec.ofNat 64 (flatLength s)) else none := by
  simp only [startCheck, constructFails_iff, encodeP0Fails_iff, framerCheck_none]
  have : 64 ≤ frameSlots s.plen.toNat := Nat.le_add_right _ _
  split_ifs <;> first | rfl | omega

theorem startCheck_decP0 (s : State) :
    startCheck .dec .p0 s = if flatLength s < 64
      then some (.capacityError, BitVec.ofNat 64 (flatLength s)) else none := by
  simp only [startCheck, constructFails_iff]

theorem startCheck_encMp (s : State) :
    startCheck .enc .mp s = if precheckSlots s < frameSlots s.plen.toNat
      then some (.capacityError, BitVec.ofNat 64 (flatLength s)) else none := by
  simp only [startCheck, encodeMpFails_iff, framerCheck_none]

theorem startCheck_decMp (s : State) :
    startCheck .dec .mp s = if flatLength s = 0 then some (.capacityError, 0) else none := by
  simp only [startCheck, zeroSize_iff]

theorem startCheck_encP0_none (s : State) :
    startCheck .enc .p0 s = none ↔ frameSlots s.plen.toNat ≤ flatLength s := by
  rw [startCheck_encP0]; split_ifs <;> simp <;> omega

theorem startCheck_decP0_none (s : State) : startCheck .dec .p0 s = none ↔ 64 ≤ flatLength s := by
  rw [startCheck_decP0]; split_ifs <;> simp <;> omega

theorem startCheck_encMp_none (s : State) :
    startCheck .enc .mp s = none ↔ frameSlots s.plen.toNat ≤ precheckSlots s := by
  rw [startCheck_encMp]; split_ifs <;> simp <;> omega

theorem startCheck_decMp_none (s : State) : startCheck .dec .mp s = none ↔ 0 < flatLength s := by
  rw [startCheck_decMp]; split_ifs <;> simp <;> omega

/-- The two outcomes of START (R207). -/
theorem start_cases (op : Operation) (var : Variant) (s : State) :
    (∃ x i, startCheck op var (startReset op var s) = some (x, i) ∧
      start op var s = raise x i (startReset op var s)) ∨
    (startCheck op var (startReset op var s) = none ∧
      start op var s = startGo op (startReset op var s)) := by
  unfold start
  cases h : startCheck op var (startReset op var s) with
  | none => exact .inr ⟨rfl, by simp only [h]⟩
  | some p => exact .inl ⟨p.1, p.2, rfl, by simp only [h]⟩

@[simp] theorem flatLength_startReset (op : Operation) (var : Variant) (s : State) :
    flatLength (startReset op var s) = flatLength s := rfl

@[simp] theorem precheckSlots_startReset (op : Operation) (var : Variant) (s : State) :
    precheckSlots (startReset op var s) = precheckSlots s := rfl

end Sys2Proof.Machine
end

