-- ==== Sys2Proof/Laws/Sequencer.lean ====
section
/-! SUPPORT. What the sequencer, the cursor and the register transfers of one slot can do, each said
once. -/

namespace Sys2Proof.Machine

/-- The three ways `AdvanceCursor` can end when the cursor is in range (R138): the flat offset grew by
one inside the plane, the next plane begins at the origin, or `CapacityExhausted`. -/
theorem advanceCursor_cases {s : State} (hr : s.curRow.toNat < s.height.toNat)
    (hc : s.curCol.toNat < s.width.toNat) (hh : s.curCh.toNat < s.channels.toNat) :
    (∃ r c h, advanceCursor s = ({ s with curRow := r, curCol := c, curCh := h }, false) ∧
      r.toNat < s.height.toNat ∧ c.toNat < s.width.toNat ∧ h.toNat < s.channels.toNat ∧
      pixelOffset s r.toNat c.toNat h.toNat = cursorAddress s + 1 ∧ cursorAddress s + 1 < flatLength s) ∨
    (s.planeIndex.toNat < 7 ∧ cursorAddress s + 1 = flatLength s ∧
      advanceCursor s =
        ({ s with curRow := 0, curCol := 0, curCh := 0, planeIndex := s.planeIndex + 1 }, false)) ∨
    (s.planeIndex = 7 ∧ cursorAddress s + 1 = flatLength s ∧
      advanceCursor s = ({ s with curRow := 0, curCol := 0, curCh := 0 }, true)) := by
  have hrow (r : Nat) (h : r + 1 ≤ s.height.toNat) :
      (r + 1) * (s.width.toNat * s.channels.toNat) ≤ flatLength s := by
    rw [flatLength, Nat.mul_assoc]; exact Nat.mul_le_mul_right _ h
  have hcol (r c : Nat) (h : c + 1 ≤ s.width.toNat) :
      (r * s.width.toNat + (c + 1)) * s.channels.toNat ≤
        (r + 1) * (s.width.toNat * s.channels.toNat) := by
    rw [← Nat.mul_assoc, Nat.succ_mul]; exact Nat.mul_le_mul_right _ (by omega)
  have hsucc (x : Nat) : (x + 1) * s.channels.toNat = x * s.channels.toNat + s.channels.toNat :=
    Nat.succ_mul _ _
  have e1 : s.curRow.toNat * s.width.toNat + (s.curCol.toNat + 1) =
      (s.curRow.toNat * s.width.toNat + s.curCol.toNat) + 1 := by omega
  have h1 := hsucc (s.curRow.toNat * s.width.toNat + s.curCol.toNat)
  have h2 := hcol s.curRow.toNat s.curCol.toNat hc
  have h3 := hrow s.curRow.toNat hr
  rw [e1] at h2
  have hH := s.height.isLt
  have hW := s.width.isLt
  have hC := s.channels.isLt
  unfold advanceCursor cursorAddress pixelOffset
  split
  · next h =>
    refine .inl ⟨s.curRow, s.curCol, s.curCh + 1, rfl, hr, hc, ?_, ?_, by omega⟩ <;>
      rw [BitVec.toNat_add_of_lt] <;> simp <;> omega
  · next h =>
    have hh' : s.curCh.toNat + 1 = s.channels.toNat := by omega
    split
    · next hk =>
      have h2' := hcol s.curRow.toNat (s.curCol.toNat + 1) hk
      have h4 := hsucc (s.curRow.toNat * s.width.toNat + (s.curCol.toNat + 1))
      rw [Nat.add_assoc, e1] at h4
      have hk' : (s.curCol + 1).toNat = s.curCol.toNat + 1 := by
        rw [BitVec.toNat_add_of_lt] <;> simp; omega
      refine .inl ⟨s.curRow, s.curCol + 1, 0, rfl, hr, by omega, by simp; omega, ?_, ?_⟩
      · rw [hk', e1, h1]; simp; omega
      · rw [show s.curRow.toNat * s.width.toNat + (s.curCol.toNat + 1 + 1) =
          s.curRow.toNat * s.width.toNat + s.curCol.toNat + 1 + 1 by omega] at h2'
        have := hsucc (s.curRow.toNat * s.width.toNat + s.curCol.toNat + 1)
        omega
    · next hk =>
      have hk' : s.curCol.toNat + 1 = s.width.toNat := by omega
      have e2 : (s.curRow.toNat * s.width.toNat + s.curCol.toNat + 1) * s.channels.toNat =
          (s.curRow.toNat + 1) * (s.width.toNat * s.channels.toNat) := by
        rw [Nat.add_assoc, hk', ← Nat.succ_mul, Nat.mul_assoc]
      split
      · next hj =>
        have h5 := hrow (s.curRow.toNat + 1) hj
        have hj' : (s.curRow + 1).toNat = s.curRow.toNat + 1 := by
          rw [BitVec.toNat_add_of_lt] <;> simp; omega
        have hpos : 0 < s.width.toNat * s.channels.toNat := Nat.mul_pos (by omega) (by omega)
        have h6 : (s.curRow.toNat + 1 + 1) * (s.width.toNat * s.channels.toNat) =
            (s.curRow.toNat + 1) * (s.width.toNat * s.channels.toNat) +
              s.width.toNat * s.channels.toNat := Nat.succ_mul _ _
        have h7 : (s.curRow.toNat + 1) * s.width.toNat * s.channels.toNat =
            (s.curRow.toNat + 1) * (s.width.toNat * s.channels.toNat) := Nat.mul_assoc _ _ _
        refine .inl ⟨s.curRow + 1, 0, 0, rfl, by omega, by simp; omega, by simp; omega, ?_, by omega⟩
        rw [hj']; simp only [BitVec.ofNat_eq_ofNat, BitVec.toNat_ofNat, Nat.zero_mod, Nat.add_zero]
        omega
      · next hj =>
        have hj' : s.curRow.toNat + 1 = s.height.toNat := by omega
        have e3 : (s.curRow.toNat + 1) * (s.width.toNat * s.channels.toNat) = flatLength s := by
          rw [hj', flatLength, Nat.mul_assoc]
        split
        · next hp => exact .inr (.inr ⟨hp, by omega, rfl⟩)
        · next hp =>
          have : s.planeIndex.toNat ≠ 7 := fun h => hp (BitVec.eq_of_toNat_eq h)
          have := s.planeIndex.isLt
          exact .inr (.inl ⟨by omega, by omega, rfl⟩)

/-- Whatever the state, `AdvanceCursor` moves the cursor and nothing else. -/
theorem advanceCursor_frame (s : State) :
    ∃ r c h p, (advanceCursor s).1 =
      { s with curRow := r, curCol := c, curCh := h, planeIndex := p } := by
  unfold advanceCursor
  split_ifs <;> exact ⟨_, _, _, _, rfl⟩

/-- The read-modify-write of one channel byte. -/
theorem modifyPix_ok {a : Nat} {f : Byte → Byte} {s t : State} :
    modifyPix a f s = .ok t ↔ (a < s.cfg.pixSize ∧ a < addressSpace) ∧
      t = { s with pix := s.pix.write a (f (s.pix.read a)) } := by
  unfold modifyPix
  by_cases h : a < s.cfg.pixSize ∧ a < addressSpace
  · rw [pixRead_ok.2 ⟨h, rfl⟩]
    exact pixWrite_ok
  · cases hr : pixRead s a with
    | error r => simp [h]
    | ok v => exact absurd (pixRead_ok.1 hr).1 h

/-- The end of a slot by the variant: SLOT counts, and in Multi-Plane the cursor moves. The flag says that
`CapacityExhausted` was raised. -/
def endSlot (s : State) : State × Bool :=
  match s.status.varl with
  | .p0 => (nextSlot s, false)
  | .mp => advanceCursor (nextSlot s)

/-- The bit a decode reads in this slot. -/
def slotBit (s : State) : Bool :=
  match s.status.varl with
  | .p0 => (s.pix.read (slotAddress s)).getLsbD 0
  | .mp => (s.pix.read (slotAddress s)).getLsbD s.planeIndex.toNat

/-- The byte an encode leaves in this slot. -/
def slotByte (b : Bool) (s : State) : Byte :=
  match s.status.varl with
  | .p0 => withBit0 (s.pix.read (slotAddress s)) b
  | .mp => withPlaneBit s.planeIndex (s.pix.read (slotAddress s)) b

/-- The channel byte of the slot can be accessed. -/
def SlotBacked (s : State) : Prop := slotAddress s < s.cfg.pixSize ∧ slotAddress s < addressSpace

/-- The two ends of an accessed slot. -/
def slotResult (b : Bool) : State × Bool → SlotResult
  | (t, true) => .exhausted t
  | (t, false) => .bit b t

theorem putBit_backed {b : Bool} {s : State} (h : SlotBacked s) :
    putBit b s =
      slotResult b (endSlot { s with pix := s.pix.write (slotAddress s) (slotByte b s) }) := by
  unfold putBit
  rcases hv : s.status.varl with - | -
  · have ha : slotAddress s = flatAddress s := by simp [slotAddress, hv]
    simp only [SlotBacked, ha] at h
    simp only [putBitP0, modifyPix_ok.2 ⟨h, rfl⟩, endSlot, hv, slotByte, ha, slotResult]
  · have ha : slotAddress s = cursorAddress s := by simp [slotAddress, hv]
    simp only [SlotBacked, ha] at h
    simp only [putBitMp, modifyPix_ok.2 ⟨h, rfl⟩, endSlot, hv, slotByte, ha, advanceWith]
    rcases advanceCursor _ with ⟨t, - | -⟩ <;> rfl

theorem readBit_backed {s : State} (h : SlotBacked s) :
    readBit s = slotResult (slotBit s) (endSlot s) := by
  unfold readBit
  rcases hv : s.status.varl with - | -
  · have ha : slotAddress s = flatAddress s := by simp [slotAddress, hv]
    simp only [SlotBacked, ha] at h
    simp only [readBitP0, pixRead_ok.2 ⟨h, rfl⟩, endSlot, hv, slotBit, ha, slotResult]
  · have ha : slotAddress s = cursorAddress s := by simp [slotAddress, hv]
    simp only [SlotBacked, ha] at h
    simp only [readBitMp, pixRead_ok.2 ⟨h, rfl⟩, endSlot, hv, slotBit, ha, advanceWith,
      planeBit_eq_getLsbD]
    rcases advanceCursor _ with ⟨t, - | -⟩ <;> rfl

theorem putBit_unbacked {b : Bool} {s : State} (h : ¬SlotBacked s) :
    putBit b s = .stuck (.pixNotBacked (slotAddress s)) := by
  unfold putBit
  rcases hv : s.status.varl with - | - <;> simp only [SlotBacked, slotAddress, hv] at h ⊢
  · simp only [putBitP0, modifyPix, pixRead_unbacked h]
  · simp only [putBitMp, modifyPix, pixRead_unbacked h]

theorem readBit_unbacked {s : State} (h : ¬SlotBacked s) :
    readBit s = .stuck (.pixNotBacked (slotAddress s)) := by
  unfold readBit
  rcases hv : s.status.varl with - | - <;> simp only [SlotBacked, slotAddress, hv] at h ⊢
  · simp only [readBitP0, pixRead_unbacked h]
  · simp only [readBitMp, pixRead_unbacked h]

/-- A slot's end moves SLOT and the cursor and nothing else. -/
theorem endSlot_frame (s : State) :
    ∃ r c h p, (endSlot s).1 =
      { s with slot := s.slot + 1, curRow := r, curCol := c, curCh := h, planeIndex := p } := by
  unfold endSlot
  split
  · exact ⟨s.curRow, s.curCol, s.curCh, s.planeIndex, rfl⟩
  · obtain ⟨r, c, h, p, he⟩ := advanceCursor_frame (nextSlot s)
    exact ⟨r, c, h, p, he⟩

end Sys2Proof.Machine
end

