-- ==== Sys2Proof/Laws/Step.lean ====
section
/-! SUPPORT. What a core step, a turn and a step can do, each said once (inversion lemmas), so that no
later proof unfolds them. -/

namespace Sys2Proof.Machine

/-! ### The bit an encode sends -/

theorem chooseBit_header {s : State} (h : s.status.phase ≠ .body) :
    chooseBit s = .ok (frame64Bit s.lenreg s.slot.toNat, s) := by
  unfold chooseBit
  rcases hp : s.status.phase with - | - | - <;> simp_all

theorem chooseBit_body_later {s : State} (h : s.status.phase = .body)
    (hj : bodyBit s.slot.toNat ≠ 0) :
    chooseBit s = .ok (s.shreg.getLsbD 7, { s with shreg := s.shreg <<< 1 }) := by
  simp only [chooseBit, h, loadShreg, if_neg hj]

theorem chooseBit_body_first {s : State} (h : s.status.phase = .body) (hj : bodyBit s.slot.toNat = 0)
    (hb : bodyByte s.slot.toNat < s.cfg.paySize ∧ bodyByte s.slot.toNat < addressSpace) :
    chooseBit s = .ok ((s.pay.read (bodyByte s.slot.toNat)).getLsbD 7,
      { s with shreg := s.pay.read (bodyByte s.slot.toNat) <<< 1 }) := by
  simp only [chooseBit, h, loadShreg, if_pos hj, payRead_ok.2 ⟨hb, rfl⟩]

theorem chooseBit_body_unbacked {s : State} (h : s.status.phase = .body) (hj : bodyBit s.slot.toNat = 0)
    (hb : ¬(bodyByte s.slot.toNat < s.cfg.paySize ∧ bodyByte s.slot.toNat < addressSpace)) :
    chooseBit s = .error (.payNotBacked (bodyByte s.slot.toNat)) := by
  simp only [chooseBit, h, loadShreg, if_pos hj, payRead_unbacked hb]

/-- Choosing a bit changes SHREG at most. -/
theorem chooseBit_frame {s t : State} {b : Bool} (h : chooseBit s = .ok (b, t)) :
    ∃ g, t = { s with shreg := g } := by
  unfold chooseBit loadShreg at h
  split at h
  · split at h
    · simp at h
    · next u hu =>
      simp only [Except.ok.injEq, Prod.mk.injEq] at h
      obtain ⟨-, rfl⟩ := h
      split at hu
      · split at hu
        · simp at hu
        · simp only [Except.ok.injEq] at hu; subst hu; exact ⟨_, rfl⟩
      · simp only [Except.ok.injEq] at hu; subst hu; exact ⟨_, rfl⟩
  all_goals
    simp only [Except.ok.injEq, Prod.mk.injEq] at h
    obtain ⟨-, rfl⟩ := h; exact ⟨s.shreg, rfl⟩

/-! ### The bit a decode delivers -/

theorem deliverBit_header {n : Nat} {b : Bool} {s : State} (h : s.status.phase ≠ .body) :
    deliverBit n b s = .ok { s with lenreg := shiftIn s.lenreg b } := by
  unfold deliverBit
  rcases hp : s.status.phase with - | - | - <;> simp_all

theorem deliverBit_body_inside {n : Nat} {b : Bool} {s : State} (h : s.status.phase = .body)
    (hj : bodyBit n ≠ 7) : deliverBit n b s = .ok { s with shreg := shiftIn s.shreg b } := by
  simp only [deliverBit, h, if_neg hj]

theorem deliverBit_body_last {n : Nat} {b : Bool} {s : State} (h : s.status.phase = .body)
    (hj : bodyBit n = 7) (hb : bodyByte n < s.cfg.paySize ∧ bodyByte n < addressSpace) :
    deliverBit n b s = .ok { s with
      shreg := shiftIn s.shreg b, pay := s.pay.write (bodyByte n) (shiftIn s.shreg b) } := by
  simp only [deliverBit, h, if_pos hj]
  exact payWrite_ok.2 ⟨hb, rfl⟩

theorem deliverBit_body_unbacked {n : Nat} {b : Bool} {s : State} (h : s.status.phase = .body)
    (hj : bodyBit n = 7) (hb : ¬(bodyByte n < s.cfg.paySize ∧ bodyByte n < addressSpace)) :
    deliverBit n b s = .error (.payNotBacked (bodyByte n)) := by
  simp only [deliverBit, h, if_pos hj]
  exact payWrite_unbacked hb

/-- What a delivery can do. -/
theorem deliverBit_cases {n : Nat} {b : Bool} {s t : State} (h : deliverBit n b s = .ok t) :
    (s.status.phase ≠ .body ∧ t = { s with lenreg := shiftIn s.lenreg b }) ∨
    (s.status.phase = .body ∧ bodyBit n ≠ 7 ∧ t = { s with shreg := shiftIn s.shreg b }) ∨
    (s.status.phase = .body ∧ bodyBit n = 7 ∧
      (bodyByte n < s.cfg.paySize ∧ bodyByte n < addressSpace) ∧
      t = { s with
        shreg := shiftIn s.shreg b, pay := s.pay.write (bodyByte n) (shiftIn s.shreg b) }) := by
  by_cases hp : s.status.phase = .body
  · by_cases hj : bodyBit n = 7
    · simp only [deliverBit, hp, if_pos hj, payWrite_ok] at h
      exact .inr (.inr ⟨hp, hj, h⟩)
    · rw [deliverBit_body_inside hp hj, Except.ok.injEq] at h
      exact .inr (.inl ⟨hp, hj, h.symm⟩)
  · rw [deliverBit_header hp, Except.ok.injEq] at h
    exact .inl ⟨hp, h.symm⟩

/-! ### What follows a slot -/

/-- The ways R210 and R211 let a slot end, for a running encode or decode. -/
theorem afterSlot_cases (n : Nat) {s : State} (hp : s.status.phase ≠ .idle)
    (ho : s.status.opl = .enc ∨ s.status.opl = .dec) :
    (s.status.phase = .hdr ∧ n ≠ 63 ∧ afterSlot n s = s) ∨
    (s.status.phase = .hdr ∧ n = 63 ∧ s.lenreg ≠ 0 ∧
      (s.status.opl = .dec → headerRejected s = false) ∧ afterSlot n s = enterBody s) ∨
    (s.status.phase = .hdr ∧ n = 63 ∧ s.status.opl = .enc ∧ s.lenreg = 0 ∧
      afterSlot n s = complete s) ∨
    (s.status.phase = .hdr ∧ n = 63 ∧ s.status.opl = .dec ∧ headerRejected s = true ∧
      afterSlot n s = completeNoData s) ∨
    (s.status.phase = .body ∧ ¬(bodyBit n = 7 ∧ bodyByte n + 1 = s.lenreg.toNat) ∧
      afterSlot n s = s) ∨
    (s.status.phase = .body ∧ (bodyBit n = 7 ∧ bodyByte n + 1 = s.lenreg.toNat) ∧
      s.status.opl = .enc ∧ afterSlot n s = complete s) ∨
    (s.status.phase = .body ∧ (bodyBit n = 7 ∧ bodyByte n + 1 = s.lenreg.toNat) ∧
      s.status.opl = .dec ∧ afterSlot n s = completeWithData s) := by
  have hzero : s.status.opl = .dec → headerRejected s = false → s.lenreg ≠ 0 := by
    intro _ h
    unfold headerRejected at h
    split at h <;> simp_all
  rcases hph : s.status.phase with - | - | -
  · exact absurd hph hp
  · by_cases hn : n = 63
    · rcases ho with ho | ho
      · by_cases hl : s.lenreg = 0
        · exact .inr (.inr (.inl ⟨rfl, hn, ho, hl, by simp [afterSlot, hph, hn, endOfHeader, ho, hl]⟩))
        · exact .inr (.inl ⟨rfl, hn, hl, by simp [ho],
            by simp only [afterSlot, hph, hn, endOfHeader, ho, if_neg hl, if_true]⟩)
      · cases hr : headerRejected s
        · exact .inr (.inl ⟨rfl, hn, hzero ho hr, fun _ => rfl,
            by simp [afterSlot, hph, hn, endOfHeader, ho, hr]⟩)
        · exact .inr (.inr (.inr (.inl ⟨rfl, hn, ho, rfl,
            by simp [afterSlot, hph, hn, endOfHeader, ho, hr]⟩)))
    · exact .inl ⟨rfl, hn, by simp [afterSlot, hph, hn]⟩
  · refine .inr (.inr (.inr (.inr ?_)))
    by_cases hl : bodyBit n = 7 ∧ bodyByte n + 1 = s.lenreg.toNat
    · rcases ho with ho | ho
      · exact .inr (.inl ⟨rfl, hl, ho, by simp [afterSlot, hph, endOfBody, hl, ho]⟩)
      · exact .inr (.inr ⟨rfl, hl, ho, by simp [afterSlot, hph, endOfBody, hl, ho]⟩)
    · exact .inl ⟨rfl, hl, by simp only [afterSlot, hph, endOfBody, if_neg hl]⟩

/-! ### The core step -/

/-- The state of an encode's slot before it ends: the bit chosen and written. -/
def written (b : Bool) (s : State) : State :=
  { s with pix := s.pix.write (slotAddress s) (slotByte b s) }

theorem encodeStep_chosen {s t : State} {b : Bool} (hc : chooseBit s = .ok (b, t)) (hb : SlotBacked t) :
    encodeStep s = .next (if (endSlot (written b t)).2 then raiseExhausted (endSlot (written b t)).1
      else afterSlot s.slot.toNat (endSlot (written b t)).1) := by
  have he : putBit b t = slotResult b (endSlot (written b t)) := putBit_backed hb
  rw [encodeStep, hc]
  simp only [he]
  rcases endSlot (written b t) with ⟨u, - | -⟩ <;> rfl

theorem decodeStep_exhausted {s : State} (hb : SlotBacked s) (he : (endSlot s).2 = true) :
    decodeStep s = .next (raiseExhausted (endSlot s).1) := by
  rw [decodeStep, readBit_backed hb]
  rcases h : endSlot s with ⟨u, - | -⟩
  · simp [h] at he
  · rfl

theorem decodeStep_delivered {s t : State} (hb : SlotBacked s) (he : (endSlot s).2 = false)
    (hd : deliverBit s.slot.toNat (slotBit s) (endSlot s).1 = .ok t) :
    decodeStep s = .next (afterSlot s.slot.toNat t) := by
  rw [decodeStep, readBit_backed hb]
  rcases h : endSlot s with ⟨u, - | -⟩
  · rw [h] at hd
    simp only [slotResult, hd]
  · simp [h] at he

/-- Everything a core step that answers a next state has done. -/
theorem coreStep_cases {s t : State} (h : coreStep s = .next t) :
    phaseMatchesSlot s = true ∧
    ((s.status.opl = .enc ∧ ∃ b u, chooseBit s = .ok (b, u) ∧ SlotBacked u ∧
        t = if (endSlot (written b u)).2 then raiseExhausted (endSlot (written b u)).1
          else afterSlot s.slot.toNat (endSlot (written b u)).1) ∨
      (s.status.opl = .dec ∧ SlotBacked s ∧
        (((endSlot s).2 = true ∧ t = raiseExhausted (endSlot s).1) ∨
          ((endSlot s).2 = false ∧ ∃ v, deliverBit s.slot.toNat (slotBit s) (endSlot s).1 = .ok v ∧
            t = afterSlot s.slot.toNat v)))) := by
  unfold coreStep at h
  split at h
  · next hp =>
    refine ⟨hp, ?_⟩
    split at h
    · next ho =>
      refine .inl ⟨ho, ?_⟩
      rcases hc : chooseBit s with r | ⟨b, u⟩
      · simp [encodeStep, hc] at h
      · by_cases hb : SlotBacked u
        · rw [encodeStep_chosen hc hb, Host.Outcome.next.injEq] at h
          exact ⟨b, u, rfl, hb, h.symm⟩
        · simp [encodeStep, hc, putBit_unbacked hb] at h
    · next ho =>
      refine .inr ⟨ho, ?_⟩
      by_cases hb : SlotBacked s
      · refine ⟨hb, ?_⟩
        rcases he : (endSlot s).2 with - | -
        · rcases hd : deliverBit s.slot.toNat (slotBit s) (endSlot s).1 with r | v
          · rw [decodeStep, readBit_backed hb] at h
            rcases hh : endSlot s with ⟨w, - | -⟩
            · rw [hh] at h hd
              simp [slotResult, hd] at h
            · simp [hh] at he
          · rw [decodeStep_delivered hb he hd, Host.Outcome.next.injEq] at h
            exact .inr ⟨rfl, v, rfl, h.symm⟩
        · rw [decodeStep_exhausted hb he, Host.Outcome.next.injEq] at h
          exact .inl ⟨rfl, h.symm⟩
      · simp [decodeStep, readBit_unbacked hb] at h
    all_goals simp at h
  · simp at h

/-! ### Turns and steps -/

theorem step_nothing_pending {s : State} (h : s.turns = []) : step s = coreTurn s := by
  simp [step, nextTurn, h]

theorem step_turn {s : State} {turn : Turn} {rest : List Turn} (h : s.turns = turn :: rest) :
    step s = takeTurn turn { s with turns := rest } := by
  simp [step, nextTurn, h]

theorem coreTurn_busy {s : State} (h : s.status.busy = true) : coreTurn s = coreStep s := by
  simp [coreTurn, h]

theorem coreTurn_idle {s : State} (h : s.status.busy = false) : coreTurn s = .next s := by
  simp [coreTurn, h]

theorem hostMemory_next {f : State → Host.Outcome State Fault Refusal} {s t : State}
    (h : hostMemory f s = .next t) : s.status.busy = false ∧ f s = .next t := by
  unfold hostMemory at h
  split at h
  · simp at h
  · next hb => exact ⟨by simpa using hb, h⟩

theorem RunsTo.zero (s : State) : RunsTo 0 s s := rfl

/-- The first step of a run. -/
theorem RunsTo.head {n : Nat} {s t u : State} (h : step s = .next t) (hr : RunsTo n t u) :
    RunsTo (n + 1) s u := by
  have h' : Sys2Proof.core.step s = .next t := h
  refine (Host.Core.run.eq_2 Sys2Proof.core s n).trans ?_
  rw [h']
  exact hr

/-- A run of at least one step has a first step. -/
theorem RunsTo.cases {n : Nat} {s u : State} (h : RunsTo (n + 1) s u) :
    ∃ t, step s = .next t ∧ RunsTo n t u := by
  have h := (Host.Core.run.eq_2 Sys2Proof.core s n).symm.trans h
  cases hs : Sys2Proof.core.step s with
  | next t => rw [hs] at h; exact ⟨t, hs, h⟩
  | fault r => rw [hs] at h; cases h
  | refused r => rw [hs] at h; cases h

theorem RunsTo.one {s t : State} (h : step s = .next t) : RunsTo 1 s t := RunsTo.head h (RunsTo.zero t)

/-- Running `m + n` steps is running `m` and then `n`. -/
theorem RunsTo.trans {m n : Nat} {s t u : State} (h1 : RunsTo m s t) (h2 : RunsTo n t u) :
    RunsTo (m + n) s u := by
  induction m generalizing s with
  | zero =>
    have : s = t := Host.Outcome.next.inj h1
    subst this; rwa [Nat.zero_add]
  | succ m ih =>
    obtain ⟨v, hv, hr⟩ := h1.cases
    rw [Nat.succ_add]
    exact RunsTo.head hv (ih hr)

end Sys2Proof.Machine
end

