-- ==== Sys2Proof/Laws/Invariant.lean ====
section
/-! SUPPORT. What the invariant of a running command gives: it does not speak of the pending turns or the
host, the slot counter does not wrap, and the closed form of the cursor (R147) goes on from slot to slot. -/

namespace Sys2Proof.Machine

theorem Running.surroundings {s : State} (h : Running s) (ts : List Turn) (v : XWord) (b : List Byte) :
    Running { s with turns := ts, hostValue := v, hostBytes := b } :=
  ⟨h.encode_or_decode, h.header_slot, h.body_slot, h.rlen_zero, h.encode_length,
    fun hv => let k := h.plane_zero hv; ⟨k.1, k.2, k.3, k.4, k.5, k.6⟩,
    fun hv => let k := h.multi_plane hv; ⟨k.1, k.2, k.3, k.4, k.5, k.6, k.7⟩⟩

theorem MachineInv.surroundings {s : State} (h : MachineInv s) (ts : List Turn) (v : XWord)
    (b : List Byte) : MachineInv { s with turns := ts, hostValue := v, hostBytes := b } :=
  ⟨⟨h.status.1, h.status.2, h.status.3, h.status.4, h.status.5, h.status.6, h.status.7⟩,
    fun hb => (h.running hb).surroundings ts v b, h.pix_canonical, h.pay_canonical⟩

/-- A busy block is in a phase of a command. -/
theorem MachineInv.not_idle {s : State} (h : MachineInv s) (hb : s.status.busy = true) :
    s.status.phase ≠ .idle := h.status.busy_iff_running.1 hb

/-- A busy block has DONE, FAULT and NODATA 0 and no cause recorded (R26). -/
theorem MachineInv.busy_flags {s : State} (h : MachineInv s) (hb : s.status.busy = true) :
    s.status.done = false ∧ s.status.fault = false ∧ s.status.nodata = false ∧ s.cause = .none := by
  have hd : s.status.done = false := by
    by_contra hf; exact h.status.not_busy_and_done ⟨hb, by simpa using hf⟩
  have hf : s.status.fault = false := by
    by_contra hf; exact h.status.not_busy_and_fault ⟨hb, by simpa using hf⟩
  refine ⟨hd, hf, ?_, ?_⟩
  · by_contra hn; exact absurd (h.status.nodata_means (by simpa using hn)).1 (by simp [hd])
  · by_contra hc; exact absurd (h.status.fault_iff_cause.2 hc) (by simp [hf])

/-- A running command's slot lies in the sweep (R72). -/
theorem Running.slot_lt {s : State} (h : Running s) (hp : s.status.phase ≠ .idle) :
    s.slot.toNat < sweepSlots s := by
  unfold sweepSlots
  rcases hv : s.status.varl with - | -
  · have k := h.plane_zero hv
    have h64 := k.header_fits
    rcases hph : s.status.phase with - | - | -
    · exact absurd hph hp
    · have := h.header_slot hph; omega
    · have := (h.body_slot hph).2; have := k.frame_fits (.inr hph); omega
  · exact (h.multi_plane hv).slot_in_sweep

/-- SLOT does not wrap while a command runs (R36). -/
theorem Running.slot_add {s : State} (h : Running s) (hp : s.status.phase ≠ .idle) :
    (s.slot + 1).toNat = s.slot.toNat + 1 := by
  have hs := h.slot_lt hp
  have := flatLength_lt s
  rw [addressSpace_eq] at this
  unfold sweepSlots at hs
  rw [BitVec.toNat_add_of_lt] <;> simp; omega

/-- The two ends of a slot of a running command, whatever SHREG and PIX hold by then: the next slot's
cursor, in range and at its closed form, or `CapacityExhausted` after the last slot of the sweep (R139,
R147). -/
theorem Running.endSlot_cases {s : State} (hr : Running s) (g : Byte) (m : Memory) :
    let u : State := { s with shreg := g, pix := m }
    ((endSlot u).2 = false ∧ ∃ r c h p,
      (endSlot u).1 =
        { u with slot := s.slot + 1, curRow := r, curCol := c, curCh := h, planeIndex := p } ∧
      (s.status.varl = .p0 → r = 0 ∧ c = 0 ∧ h = 0 ∧ p = 0) ∧
      (s.status.varl = .mp →
        r.toNat < s.height.toNat ∧ c.toNat < s.width.toNat ∧ h.toNat < s.channels.toNat ∧
        s.slot.toNat + 1 < sweepSlots s ∧
        pixelOffset s r.toNat c.toNat h.toNat = (s.slot.toNat + 1) % flatLength s ∧
        p.toNat = (s.slot.toNat + 1) / flatLength s)) ∨
    ((endSlot u).2 = true ∧ s.status.varl = .mp ∧ s.slot.toNat + 1 = sweepSlots s ∧
      (endSlot u).1 =
        { u with slot := s.slot + 1, curRow := 0, curCol := 0, curCh := 0, planeIndex := 7 }) := by
  intro u
  rcases hv : s.status.varl with - | -
  · left
    have k := hr.plane_zero hv
    refine ⟨by simp [endSlot, u, hv], s.curRow, s.curCol, s.curCh, s.planeIndex,
      by simp [endSlot, u, hv, nextSlot], fun _ => ⟨k.1, k.2, k.3, k.4⟩, by simp⟩
  · have k := hr.multi_plane hv
    have hF : 0 < flatLength s := by have := k.slot_in_sweep; unfold sweepSlots at this; omega
    have hsw : sweepSlots s = 8 * flatLength s := rfl
    have hdm := Nat.div_add_mod s.slot.toNat (flatLength s)
    have hml := Nat.mod_lt s.slot.toNat hF
    have ha := k.address_is
    have hpl := k.plane_is
    have he : endSlot u = advanceCursor (nextSlot u) := by simp [endSlot, u, hv]
    rw [he]
    have hca : cursorAddress (nextSlot u) = cursorAddress s := rfl
    have hfl : flatLength (nextSlot u) = flatLength s := rfl
    rcases advanceCursor_cases (s := nextSlot u) k.row_in_range k.col_in_range k.ch_in_range with
      ⟨r, c, h, h1, h2, h3, h4, h5, h6⟩ | ⟨h1, h2, h3⟩ | ⟨h1, h2, h3⟩
    · left
      rw [h1]
      refine ⟨rfl, r, c, h, s.planeIndex, rfl, by simp, fun _ => ⟨h2, h3, h4, ?_, ?_, ?_⟩⟩
      · rw [hca, hfl] at h6
        have := k.slot_in_sweep
        have h7 : s.slot.toNat / flatLength s < 8 := by rw [← hpl]; exact s.planeIndex.isLt
        have : flatLength s * (s.slot.toNat / flatLength s + 1) ≤ flatLength s * 8 :=
          Nat.mul_le_mul_left _ h7
        rw [Nat.mul_add] at this
        omega
      · rw [hca, hfl] at h6
        have h5' : pixelOffset s r.toNat c.toNat h.toNat = cursorAddress s + 1 := h5
        rw [h5', ha, Nat.add_mod_of_add_mod_lt] <;> (try rw [Nat.mod_eq_of_lt (a := 1)]) <;> omega
      · rw [hca, hfl] at h6
        rw [hpl]
        symm
        apply Nat.div_eq_of_lt_le
        · rw [Nat.mul_comm]; omega
        · rw [Nat.succ_mul, Nat.mul_comm]; omega
    · left
      rw [h3]
      rw [hca, hfl] at h2
      have h1' : s.planeIndex.toNat < 7 := h1
      have hp' : (s.planeIndex + 1).toNat = s.planeIndex.toNat + 1 := by
        rw [BitVec.toNat_add_of_lt] <;> simp; omega
      have hs1 : s.slot.toNat + 1 = flatLength s * (s.planeIndex.toNat + 1) := by
        rw [hpl, Nat.mul_add]; omega
      have hk1 := k.row_in_range
      have hk2 := k.col_in_range
      have hk3 := k.ch_in_range
      refine ⟨rfl, 0, 0, 0, s.planeIndex + 1, rfl, by simp,
        fun _ => ⟨by simp; omega, by simp; omega, by simp; omega, ?_, ?_, ?_⟩⟩
      · rw [hs1, hsw, Nat.mul_comm 8]; exact Nat.mul_lt_mul_of_pos_left (by omega) hF
      · rw [hs1]; simp [pixelOffset]
      · rw [hs1, hp', Nat.mul_div_cancel_left _ hF]
    · right
      rw [h3]
      rw [hca, hfl] at h2
      have h1' : s.planeIndex = 7 := h1
      have h7 : s.planeIndex.toNat = 7 := by rw [h1']; rfl
      refine ⟨rfl, rfl, ?_, ?_⟩
      · rw [← hpl, h7] at hdm; omega
      · simp only [nextSlot, u, h1']

end Sys2Proof.Machine
end

