-- ==== Sys2Proof/Laws/PerInstr.lean ====
section
/-! SUPPORT. Statements made of every instruction, one lemma per constructor. -/

namespace Sys2Proof.Laws.CommandWordLegal

/-- Where the encoder writes a command word, bits 63:4 of it are 0 (spec/30_encoding.md R90). -/
def Statement (i : Instr) : Prop := ∀ c : XWord, encode i = .cmd c → cmdZeroField c = 0

theorem nop : Statement .nop := by rintro _ ⟨⟩; decide
theorem capP0 : Statement .capP0 := by rintro _ ⟨⟩; decide
theorem capMp : Statement .capMp := by rintro _ ⟨⟩; decide
theorem encP0 : Statement .encP0 := by rintro _ ⟨⟩; decide
theorem encMp : Statement .encMp := by rintro _ ⟨⟩; decide
theorem decP0 : Statement .decP0 := by rintro _ ⟨⟩; decide
theorem decMp : Statement .decMp := by rintro _ ⟨⟩; decide
theorem clr : Statement .clr := by rintro _ ⟨⟩; decide
theorem csrr (n : Nat) : Statement (.csrr n) := by rintro _ ⟨⟩
theorem csrw (n : Nat) (value : XWord) : Statement (.csrw n value) := by rintro _ ⟨⟩

end Sys2Proof.Laws.CommandWordLegal
end

