-- ==== Sys2Proof/Tests/Slice0.lean ====
section
/-! SUPPORT. The model's own tests. Expected values are those of spec/95_test_vectors.md (S, V and P name
its entries), spec/30_encoding.md R92 and spec/70_reset_and_hazards.md R260. Then one witness for each
statement with hypotheses: a state and operands that meet all of them, at boundary values. -/

namespace Sys2Proof.Tests

open Sys2Proof.Machine

/-! ### Helpers -/

/-- What `f` sees of the state an outcome reaches. -/
def after {α : Type} (o : Host.Outcome State Fault Refusal) (f : State → α) : Option α :=
  match o with
  | .next t => some (f t)
  | .fault _ | .refused _ => none

/-- What `f` sees of the state an accessed slot reaches, and whether it raised. -/
def afterBit {α : Type} (r : SlotResult) (f : State → α) : Option (Bool × α) :=
  match r with
  | .bit _ t => some (false, f t)
  | .exhausted t => some (true, f t)
  | .stuck _ => none

/-- The bit of a slot, if one was read. -/
def bitOf : SlotResult → Option Bool
  | .bit b _ => some b
  | .exhausted _ | .stuck _ => none

/-- An idle block after reset with these dimensions and this PLEN. -/
def idle (h w : BitVec 16) (c : BitVec 8) (len : XWord) : State :=
  { State.reset with height := h, width := w, channels := c, plen := len }

/-- A faulted block (V33): after an illegal command. -/
def faulted : State := raise .illegalCommand 1 (idle 1 1 1 0)

/-- The STATUS of a running command. -/
def runStatus (p : Phase) (op : Operation) (v : Variant) : Status :=
  { Status.reset with busy := true, phase := p, opl := op, varl := v }

/-- V25: ENC.P0 of the byte `0x80` on 72 zero bytes, before the step for slot `n`. -/
def encodingP0 (p : Phase) (n : BitVec 43) : State :=
  { idle 3 8 3 1 with status := runStatus p .enc .p0, lenreg := 1, slot := n, pay := [(0, 0x80)] }

/-- DEC.P0 on 64 zero bytes before slot 0. -/
def decodingP0 : State := { idle 4 4 4 0 with status := runStatus .hdr .dec .p0 }

/-- DEC.MP on one byte before slot 7, the last of its sweep. -/
def decodingMp : State :=
  { idle 1 1 1 0 with status := runStatus .hdr .dec .mp, planeIndex := 7, slot := 7 }

/-- Two rows, two columns, three channels with the cursor as given (V8). -/
def cursorAt (r c : BitVec 16) (ch : BitVec 8) (p : BitVec 3) : State :=
  { idle 2 2 3 0 with curRow := r, curCol := c, curCh := ch, planeIndex := p }

/-- The cursor as V8 writes it. -/
def cursorOf (s : State) : Nat × Nat × Nat × Nat :=
  (s.curRow.toNat, s.curCol.toNat, s.curCh.toNat, s.planeIndex.toNat)

/-! ### Well-formedness -/

theorem test_wellformed_refuses_csrr_18 : (Instr.csrr 18).wellFormed = false := by decide
theorem test_wellformed_refuses_csrw_18 : (Instr.csrw 18 0).wellFormed = false := by decide
theorem test_wellformed_takes_17 :
    (Instr.csrr 17).wellFormed = true ∧ (Instr.csrw 17 0).wellFormed = true := by decide

/-! ### Decoding: the words of R92, fields `zero`, `op`, `v` written out -/

theorem test_decode_nop : decode (.cmd (0#60 ++ 0b000#3 ++ 0b0#1)) = .ok .nop := by decide
theorem test_decode_capP0 : decode (.cmd (0#60 ++ 0b001#3 ++ 0b0#1)) = .ok .capP0 := by decide
theorem test_decode_capMp : decode (.cmd (0#60 ++ 0b001#3 ++ 0b1#1)) = .ok .capMp := by decide
theorem test_decode_encP0 : decode (.cmd (0#60 ++ 0b010#3 ++ 0b0#1)) = .ok .encP0 := by decide
theorem test_decode_encMp : decode (.cmd (0#60 ++ 0b010#3 ++ 0b1#1)) = .ok .encMp := by decide
theorem test_decode_decP0 : decode (.cmd (0#60 ++ 0b011#3 ++ 0b0#1)) = .ok .decP0 := by decide
theorem test_decode_decMp : decode (.cmd (0#60 ++ 0b011#3 ++ 0b1#1)) = .ok .decMp := by decide
theorem test_decode_clr : decode (.cmd (0#60 ++ 0b100#3 ++ 0b0#1)) = .ok .clr := by decide
theorem test_decode_csrr : decode (.read 15) = .ok (.csrr 15) := by decide
theorem test_decode_csrw : decode (.write 8 5) = .ok (.csrw 8 5) := by decide

/-- R94: `0x1`, `0x9` to `0xF`; V32: `0x14` and `0x8000_0000_0000_0004`. -/
theorem test_decode_illegal :
    ([0x1, 0x9, 0xA, 0xB, 0xC, 0xD, 0xE, 0xF].map fun c => decode (.cmd c)) =
        List.replicate 8 (.error .noSuchCommand) ∧
      decode (.cmd 0x14) = .error .reservedBitsNotZero ∧
      decode (.cmd 0x8000000000000004) = .error .reservedBitsNotZero := by decide

/-- The host's numbering of a 64-bit table word is the word itself; the accesses have no bits. -/
theorem test_table_words :
    decodeTableWord 64 0x7 = some .decMp ∧ decodeTableWord 64 0x9 = none ∧ decodeTableWord 0 0 = none := by
  decide

/-- A placed word runs as the next step: `CMD CAP.MP` on V9's buffer. -/
theorem test_placed_word_runs :
    after (step ((idle 1 5 2 1).withFetchWord 64 0x3)) (fun t => (t.capbytes, statusWord t.status)) =
      some (1, 0x5002) := by decide

/-! ### Reset and registers -/

/-- V30. -/
theorem test_reset_reads :
    [0, 1, 2, 15, 18, 1000].map (csrRead State.reset) = [0x000100074C534250, 0, 0, 0xFE0100, 0, 0] := by
  decide

/-- V31. -/
theorem test_csrw_low_bits :
    after (execCsrw 6 0x10064 State.reset) (csrRead · 6) = some 0x64 ∧
      after (execCsrw 7 0x103 State.reset) (csrRead · 7) = some 0x03 ∧
      after (execCsrw 8 0xFFFFFFFFFFFFFFFF State.reset) (csrRead · 8) = some 0xFFFFFFFFFFFFFFFF := by
  decide

/-- V31: nothing for STATUS, SLOT, ID and a reserved number. -/
theorem test_csrw_read_only :
    [(2, 0xFF), (16, 5), (0, 0), (18, 1)].map (fun p => after (execCsrw p.1 p.2 (idle 1 1 1 0)) id) =
      List.replicate 4 (some (idle 1 1 1 0)) := by decide

/-- R201's example: `CSRR PLANE` after reset. -/
theorem test_csrr_plane : after (execCsrr 15 State.reset) (·.hostValue) = some 0xFE0100 := by decide

/-! ### NOP, CLR, illegal words -/

/-- V33: NOP on a faulted block. -/
theorem test_nop_faulted : after (execNop faulted) id = some faulted := by decide

/-- V32: STATUS `0x0004`, CAUSE 4, FINFO the word. -/
theorem test_illegal_command :
    after (execCsrw 1 0x14 State.reset) (fun t => (csrRead t 2, csrRead t 3, csrRead t 4)) =
      some (0x4, 4, 0x14) := by decide

/-- V32: CLR gives STATUS 0, CAUSE 0, FINFO 0. -/
theorem test_clr :
    after (execClr faulted) (fun t => (csrRead t 2, csrRead t 3, csrRead t 4)) = some (0, 0, 0) := by decide

/-- V33: `0x2`, `0x4`, `0x9`, `0x10` are ignored while faulted. -/
theorem test_commands_while_faulted :
    [0x2, 0x4, 0x9, 0x10].map (fun c => after (execCsrw 1 c faulted) id) =
      List.replicate 4 (some faulted) := by decide

/-! ### Capacity (V18) -/

theorem test_capP0_table :
    [idle 0 5 3 0, idle 1 1 1 0, idle 4 4 3 0, idle 4 4 4 0, idle 3 8 3 0, idle 65535 65535 255 0].map
      capacityP0 = [-8, -8, -2, 0, 1, 136897904663] := by decide

theorem test_capMp_table :
    [idle 0 5 3 0, idle 1 1 1 0, idle 2 2 2 0, idle 1 3 3 0, idle 2 2 3 0, idle 65535 65535 255 0].map
      capacityMp = [-9, -8, -1, 0, 3, 1095183237366] := by decide

/-- V16, V18: the literal pre-check. -/
theorem test_capMp_plane0 :
    [idle 2 2 3 0, idle 2 5 8 0, idle 100 100 3 0].map
      (fun s => capacityMp { s with cfg := { s.cfg with mpPrecheckSlots := .plane0 } }) =
      [-7, 2, 3742] := by decide

/-- S1: CAP.P0 of 48 bytes: CAPBYTES 0, STATUS `0x1012`. -/
theorem test_capP0 :
    after (execCapP0 (idle 4 4 3 0)) (fun t => (csrRead t 11, csrRead t 2)) = some (0, 0x1012) := by decide

/-- P2 step 3: CAPBYTES 1, STATUS `0x5002`. -/
theorem test_capMp :
    after (execCapMp (idle 1 5 2 1)) (fun t => (csrRead t 11, csrRead t 2)) = some (1, 0x5002) := by decide

/-! ### START -/

/-- V25: STATUS `0x2101`, HDRLEN 1; V2: a byte more faults with FINFO 64. -/
theorem test_encP0 :
    after (execEncP0 (idle 3 8 3 1)) (fun t => (csrRead t 2, csrRead t 10)) = some (0x2101, 1) ∧
      after (execEncP0 (idle 4 4 4 1)) (fun t => (csrRead t 2, csrRead t 3, csrRead t 4)) =
        some (0x2004, 1, 64) := by decide

/-- P2 step 4: STATUS `0x6101`; V10: PLEN 2 on nine bytes faults with FINFO 9. -/
theorem test_encMp :
    after (execEncMp (idle 1 5 2 1)) (fun t => (csrRead t 2, csrRead t 10)) = some (0x6101, 1) ∧
      after (execEncMp (idle 1 3 3 2)) (fun t => (csrRead t 2, csrRead t 3, csrRead t 4)) =
        some (0x6004, 1, 9) := by decide

/-- P1 step 10: STATUS `0x3101`, HDRLEN 0; V7: 48 bytes fault. -/
theorem test_decP0 :
    after (execDecP0 (idle 100 100 3 5)) (fun t => (csrRead t 2, csrRead t 10)) = some (0x3101, 0) ∧
      after (execDecP0 (idle 4 4 3 1)) (fun t => (csrRead t 2, csrRead t 3, csrRead t 4)) =
        some (0x3004, 1, 48) := by decide

/-- P2 step 8: STATUS `0x7101`; V17: a zero dimension faults with FINFO 0. -/
theorem test_decMp :
    after (execDecMp (idle 1 5 2 1)) (fun t => (csrRead t 2, csrRead t 16)) = some (0x7101, 0) ∧
      after (execDecMp (idle 0 2 3 0)) (fun t => (csrRead t 2, csrRead t 3, csrRead t 4)) =
        some (0x7004, 1, 0) := by decide

/-! ### Framer, shifter, sequencer, cursor -/

/-- V20: the ones of `Frame64(5)` and of `Frame64(256)`. -/
theorem test_frame64 :
    (List.range 64).filter (frame64Bit 5) = [61, 63] ∧ (List.range 64).filter (frame64Bit 256) = [55] := by
  decide

/-- V21: `Ser8` and the shifter on `0xA5`. -/
theorem test_ser8 :
    ser8 0xA5 = [true, false, true, false, false, true, false, true] ∧
      (List.range 8).map (fun n => ((ser8 0xA5).take (n + 1)).foldl shiftIn (0xFF : Byte)) =
        [0xFF, 0xFE, 0xFD, 0xFA, 0xF4, 0xE9, 0xD2, 0xA5] := by decide

/-- V22: the ones of `stream(1, [0xA5])`. -/
theorem test_stream :
    (List.range 72).filter (streamBit 1 fun _ => 0xA5) = [63, 64, 66, 69, 71] := by decide

/-- V24, PutBit. -/
theorem test_putBit :
    afterBit (putBitP0 false { State.reset with pix := [(0, 0xFF)] }) (·.pix.read 0) = some (false, 0xFE) ∧
      afterBit (putBitP0 true { State.reset with pix := [(0, 0xA7)] }) (·.pix.read 0) = some (false, 0xA7) ∧
      afterBit (putBitMp true (cursorAt 0 0 0 3)) (·.pix.read 0) = some (false, 0x08) ∧
      afterBit (putBitMp false { cursorAt 0 0 0 7 with pix := [(0, 0xFF)] }) (·.pix.read 0) =
        some (false, 0x7F) := by decide

/-- V24, ReadBit. -/
theorem test_readBit :
    bitOf (readBitP0 { State.reset with pix := [(0, 0xFE)] }) = some false ∧
      bitOf (readBitP0 { State.reset with pix := [(0, 0x01)] }) = some true ∧
      bitOf (readBitMp { cursorAt 0 0 0 7 with pix := [(0, 0x80)] }) = some true ∧
      bitOf (readBitMp { cursorAt 0 0 0 7 with pix := [(0, 0x7F)] }) = some false := by decide

/-- V8. -/
theorem test_advanceCursor :
    [cursorAt 0 0 0 0, cursorAt 0 0 2 0, cursorAt 0 1 2 0, cursorAt 1 1 2 0, cursorAt 1 1 2 6,
        cursorAt 1 1 2 7].map (fun s => (cursorOf (advanceCursor s).1, (advanceCursor s).2)) =
      [((0, 0, 1, 0), false), ((0, 1, 0, 0), false), ((1, 0, 0, 0), false), ((0, 0, 0, 1), false),
        ((0, 0, 0, 7), false), ((0, 0, 0, 7), true)] := by decide

/-! ### Core steps (V25, R139) -/

/-- V25, slot 63: PHASE becomes BODY and the header's last bit is 1. -/
theorem test_core_step_end_of_header :
    after (coreStep (encodingP0 .hdr 63)) (fun t => (csrRead t 2, csrRead t 16, t.pix)) =
      some (0x2201, 64, [(63, 1)]) := by decide

/-- V25, slot 64: the payload byte is loaded and its first bit sent. -/
theorem test_core_step_first_body_slot :
    after (coreStep (encodingP0 .body 64)) (fun t => (csrRead t 16, csrRead t 17, t.pix)) =
      some (65, 0, [(64, 1)]) := by decide

/-- V25, slot 71: completion. -/
theorem test_core_step_completion :
    after (coreStep (encodingP0 .body 71)) (fun t => (csrRead t 2, csrRead t 16)) = some (0x2002, 72) := by
  decide

/-- The last slot of a sweep: `CapacityExhausted` with FINFO `8*F` (R139). -/
theorem test_core_step_exhausted :
    after (coreStep decodingMp) (fun t => (csrRead t 2, csrRead t 3, csrRead t 4, csrRead t 15)) =
      some (0x7004, 2, 8, 0x7F8007) := by decide

/-! ### States that meet the invariant -/

theorem idle_inv (h w : BitVec 16) (c : BitVec 8) (len : XWord) : MachineInv (idle h w c len) :=
  ⟨⟨by simp [idle, State.reset, Status.reset], by simp [idle, State.reset, Status.reset],
    by simp [idle, State.reset, Status.reset], by simp [idle, State.reset, Status.reset],
    by simp [idle, State.reset, Status.reset], by simp [idle, State.reset, Status.reset],
    by simp [idle, State.reset, Status.reset]⟩,
    by simp [idle, State.reset, Status.reset], Memory.wf_nil, Memory.wf_nil⟩

theorem idle_accepting (h w : BitVec 16) (c : BitVec 8) (len : XWord) : Accepting (idle h w c len) :=
  ⟨rfl, rfl⟩

theorem faulted_inv : MachineInv faulted :=
  ⟨⟨by decide, by decide, by decide, by decide, by decide, by decide, by decide⟩,
    nofun, Memory.wf_nil, Memory.wf_nil⟩

theorem encodingP0_body_inv : MachineInv (encodingP0 .body 64) :=
  ⟨⟨by decide, by decide, by decide, by decide, by decide, by decide, by decide⟩,
    fun _ => ⟨.inl rfl, by decide, by decide, rfl, by decide,
      fun _ => ⟨rfl, rfl, rfl, rfl, by decide, by decide⟩, nofun⟩,
    Memory.wf_nil, by decide⟩

theorem encodingP0_header_inv : MachineInv (encodingP0 .hdr 63) :=
  ⟨⟨by decide, by decide, by decide, by decide, by decide, by decide, by decide⟩,
    fun _ => ⟨.inl rfl, by decide, by decide, rfl, by decide,
      fun _ => ⟨rfl, rfl, rfl, rfl, by decide, by decide⟩, nofun⟩,
    Memory.wf_nil, by decide⟩

theorem decodingP0_inv : MachineInv decodingP0 :=
  ⟨⟨by decide, by decide, by decide, by decide, by decide, by decide, by decide⟩,
    fun _ => ⟨.inr rfl, by decide, by decide, rfl, by decide,
      fun _ => ⟨rfl, rfl, rfl, rfl, by decide, by decide⟩, nofun⟩,
    Memory.wf_nil, Memory.wf_nil⟩

theorem decodingMp_inv : MachineInv decodingMp :=
  ⟨⟨by decide, by decide, by decide, by decide, by decide, by decide, by decide⟩,
    fun _ => ⟨.inr rfl, by decide, by decide, rfl, by decide, nofun,
      fun _ => ⟨by decide, by decide, by decide, by decide, by decide, by decide, by decide⟩⟩,
    Memory.wf_nil, Memory.wf_nil⟩

/-- DEC.P0 of one byte in 72, before slot 71. -/
def decodingP0Body : State :=
  { idle 3 8 3 0 with status := runStatus .body .dec .p0, lenreg := 1, slot := 71 }

theorem decodingP0Body_inv : MachineInv decodingP0Body :=
  ⟨⟨by decide, by decide, by decide, by decide, by decide, by decide, by decide⟩,
    fun _ => ⟨.inr rfl, by decide, by decide, rfl, by decide,
      fun _ => ⟨rfl, rfl, rfl, rfl, by decide, by decide⟩, nofun⟩,
    Memory.wf_nil, Memory.wf_nil⟩

/-- DEC.MP of one byte on V9's buffer, before slot 71: offset 1 of plane 7. -/
def decodingMpBody : State :=
  { idle 1 5 2 0 with
    status := runStatus .body .dec .mp, lenreg := 1, slot := 71, curCh := 1, planeIndex := 7 }

theorem decodingMpBody_inv : MachineInv decodingMpBody :=
  ⟨⟨by decide, by decide, by decide, by decide, by decide, by decide, by decide⟩,
    fun _ => ⟨.inr rfl, by decide, by decide, rfl, by decide, nofun,
      fun _ => ⟨by decide, by decide, by decide, by decide, by decide, by decide, by decide⟩⟩,
    Memory.wf_nil, Memory.wf_nil⟩

/-- A state on a platform that backs `pix` bytes of PIX and `pay` bytes of PAY. -/
def backing (pix pay : Nat) (s : State) : State :=
  { s with cfg := { s.cfg with pixSize := pix, paySize := pay } }

/-- The invariant does not speak of the sizes of the memories. -/
theorem backing_inv {s : State} (h : MachineInv s) (pix pay : Nat) : MachineInv (backing pix pay s) :=
  ⟨⟨h.status.1, h.status.2, h.status.3, h.status.4, h.status.5, h.status.6, h.status.7⟩,
    fun hb =>
      let r := h.running hb
      ⟨r.1, r.2, r.3, r.4, r.5, fun hv => let k := r.plane_zero hv; ⟨k.1, k.2, k.3, k.4, k.5, k.6⟩,
        fun hv => let k := r.multi_plane hv; ⟨k.1, k.2, k.3, k.4, k.5, k.6, k.7⟩⟩,
    h.pix_canonical, h.pay_canonical⟩

/-! ### Witnesses -/

/-- The turns `ts` before a state. -/
def before (ts : List Turn) (s : State) : State := { s with turns := ts }

theorem witness_ResetWorksFromAnyState : ∃ (s : State) (rest : List Turn) (pix pay : List Host.Cell),
    s.status.busy = true ∧ s.turns = .reset pix pay :: rest :=
  ⟨before [.reset [(1, 2)] [], .core] decodingP0, [.core], [(1, 2)], [], rfl, rfl⟩

theorem witness_EveryStepKeepsTheInvariant :
    ∃ s t, MachineInv s ∧ s.status.busy = true ∧ step s = .next t :=
  ⟨encodingP0 .body 64, _, encodingP0_body_inv, rfl, rfl⟩

theorem witness_StepRunsTheDecodedAccess :
    (∃ (s : State) (w : HostWord) (rest : List Turn) (i : Instr),
      s.turns = .access w :: rest ∧ decode w = .ok i) ∧
    ∃ (s : State) (c : XWord) (rest : List Turn) (e : DecodeError),
      s.turns = .access (.cmd c) :: rest ∧ decode (.cmd c) = .error e ∧ Accepting s :=
  ⟨⟨before [.access (.cmd 4), .core] (idle 4 4 4 0), .cmd 4, [.core], .encP0, rfl, by decide⟩,
    ⟨before [.access (.cmd 9), .core] State.reset, 9, [.core], .noSuchCommand, rfl, by decide, rfl, rfl⟩⟩

theorem witness_CoreMovesExactlyWhileBusy :
    (∃ s : State, s.turns = [] ∧ s.status.busy = true) ∧
      (∃ s : State, s.turns = [] ∧ s.status.busy = false) ∧
      (∃ s : State, ∃ rest, s.turns = .core :: rest ∧ s.status.busy = true) ∧
      ∃ s : State, ∃ rest, s.turns = .core :: rest ∧ s.status.busy = false :=
  ⟨⟨decodingP0, rfl, rfl⟩, ⟨State.reset, rfl, rfl⟩, ⟨before [.core] decodingP0, [], rfl, rfl⟩,
    ⟨before [.core] State.reset, [], rfl, rfl⟩⟩

theorem witness_PlacedWordRunsNext :
    ∃ (w : Nat) (i : Instr), w < 2 ^ 64 ∧ decodeTableWord 64 w = some i := ⟨8, .clr, by decide, by decide⟩

theorem witness_EncodeOfDecode :
    (∃ i, decode (.cmd 8) = .ok i) ∧ (∃ i, decode (.read 18) = .ok i) ∧ ∃ i, decode (.write 1 9) = .ok i :=
  ⟨⟨.clr, by decide⟩, ⟨.csrr 18, by decide⟩, ⟨.csrw 1 9, by decide⟩⟩

theorem witness_ClrClearsFlagsAndRecord :
    (∃ s : State, s.status.busy = false ∧ s.status.fault = true) ∧
      ∃ s : State, s.status.busy = false ∧ s.status.fault = false :=
  ⟨⟨faulted, rfl, rfl⟩, ⟨State.reset, rfl, rfl⟩⟩

theorem witness_CsrrOnlyReads : (1 = 1 ∨ 18 ≤ 1) ∧ (18 = 1 ∨ 18 ≤ 18) := by decide

theorem witness_CsrwStoresTheLowBits :
    faulted.status.busy = false ∧ ∀ n ∈ [5, 7, 8], 5 ≤ n ∧ n ≤ 8 := by decide

theorem witness_CsrwOfReadOnlyChangesNothing :
    ∀ n ∈ [0, 2, 4, 9, 17, 18], n ≠ 1 ∧ (n < 5 ∨ 8 < n) := by decide

theorem witness_CsrwOfCmdIsTheCommand :
    (∃ c i, decode (.cmd c) = .ok i) ∧ ∃ c e, decode (.cmd c) = .error e :=
  ⟨⟨0, .nop, by decide⟩, ⟨9, .noSuchCommand, by decide⟩⟩

theorem witness_BusyBlockIgnoresTheHost : ∃ s : State, s.status.busy = true := ⟨decodingP0, rfl⟩

theorem witness_CommandMapIsComplete : ∃ c i, decode (.cmd c) = .ok i := ⟨8, .clr, by decide⟩

/-- Each clause: busy; faulted with a word that is ignored; faulted with CLR; accepting with a legal and with
an illegal word. -/
theorem witness_CommandWordsAreExaminedInOrder :
    decodingP0.status.busy = true ∧
      (faulted.status.busy = false ∧ faulted.status.fault = true ∧ (9 : XWord) ≠ 0 ∧ (9 : XWord) ≠ 8) ∧
      (faulted.status.busy = false ∧ ∃ i, decode (.cmd 8) = .ok i) ∧
      State.reset.status.busy = false ∧ State.reset.status.fault = false ∧
      (∃ i, decode (.cmd 7) = .ok i) ∧ ∃ e, decode (.cmd 9) = .error e :=
  ⟨rfl, by decide, ⟨rfl, .clr, by decide⟩, rfl, rfl, ⟨.decMp, by decide⟩, ⟨.noSuchCommand, by decide⟩⟩

theorem witness_IllegalWordTakesItsFault : Accepting State.reset ∧
    (0x10 : XWord).toNat / 16 ≠ 0 ∧ (0x1 : XWord).toNat % 16 = 1 ∧ 9 ≤ (0x9 : XWord).toNat % 16 :=
  ⟨⟨rfl, rfl⟩, by decide⟩

theorem witness_OnlyClrAndResetEndAFault : ∃ s t, MachineInv s ∧ s.status.fault = true ∧ step s = .next t :=
  ⟨faulted, faulted, faulted_inv, rfl, rfl⟩

theorem witness_Capacity : ∃ s : State, Accepting s ∧ s.cfg.mpPrecheckSlots = .sweep :=
  ⟨idle 1 3 3 0, ⟨rfl, rfl⟩, rfl⟩

theorem witness_CapP0IsTheEncodeBoundary : ∃ (s t u : State) (len : XWord),
    Accepting s ∧ exec .capP0 s = .next t ∧ exec .encP0 { t with plen := len } = .next u :=
  ⟨idle 3 8 3 0, _, _, 1, ⟨rfl, rfl⟩, rfl, rfl⟩

theorem witness_CapacityQueryIsIdempotent : ∃ s t u : State,
    Accepting s ∧ exec .capP0 s = .next t ∧ exec .capMp s = .next u :=
  ⟨idle 1 3 3 0, _, _, ⟨rfl, rfl⟩, rfl, rfl⟩

theorem witness_EncodesStart :
    (∃ s, Accepting s ∧ frameSlots s.plen.toNat = flatLength s) ∧
      ∃ s, Accepting s ∧ frameSlots s.plen.toNat = precheckSlots s :=
  ⟨⟨idle 3 8 3 1, ⟨rfl, rfl⟩, by decide⟩, ⟨idle 1 3 3 1, ⟨rfl, rfl⟩, by decide⟩⟩

theorem witness_DecodesStart :
    (∃ s, Accepting s ∧ 64 = flatLength s) ∧ ∃ s, Accepting s ∧ 0 + 1 = flatLength s :=
  ⟨⟨idle 4 4 4 0, ⟨rfl, rfl⟩, by decide⟩, ⟨idle 1 1 1 0, ⟨rfl, rfl⟩, by decide⟩⟩

theorem witness_StartFaultsWithCapacityError :
    (∃ s, Accepting s ∧ flatLength s < frameSlots s.plen.toNat ∧ 64 ≤ flatLength s) ∧
      (∃ s, Accepting s ∧ flatLength s + 1 = 64) ∧
      (∃ s, Accepting s ∧ precheckSlots s < frameSlots s.plen.toNat) ∧
      ∃ s, Accepting s ∧ flatLength s = 0 :=
  ⟨⟨idle 4 4 4 1, ⟨rfl, rfl⟩, by decide⟩, ⟨idle 9 7 1 0, ⟨rfl, rfl⟩, by decide⟩,
    ⟨idle 1 3 3 2, ⟨rfl, rfl⟩, by decide⟩, ⟨idle 0 2 3 0, ⟨rfl, rfl⟩, by decide⟩⟩

/-- The slots of V22, and the boundary of the length. -/
theorem witness_FrameIsInvertible : ∃ (len : Nat) (p : Nat → Byte) (slot : Nat → Bool), len < 2 ^ 64 ∧
    (∀ n, n < frameSlots len → slot n = streamBit len p n) ∧ 0 < len :=
  ⟨1, fun _ => 0xA5, streamBit 1 fun _ => 0xA5, by decide, fun _ _ => rfl, by decide⟩

theorem witness_PutBitP0ReplacesBitZero : ∃ s : State,
    Memory.wf s.pix ∧ s.slot.toNat < s.cfg.pixSize ∧ s.slot.toNat + 1 = addressSpace :=
  ⟨{ State.reset with slot := 0xFFFFFFFFFF }, Memory.wf_nil, by decide, by decide⟩

theorem witness_PutBitMpReplacesThePlaneBit : ∃ s : State,
    Memory.wf s.pix ∧ cursorAddress s < s.cfg.pixSize ∧ cursorAddress s < addressSpace :=
  ⟨cursorAt 1 1 2 7, Memory.wf_nil, by decide, by decide⟩

theorem witness_ReadBitAnswersTheAddressedBit : ∃ s : State,
    (s.slot.toNat < s.cfg.pixSize ∧ s.slot.toNat < addressSpace) ∧
      cursorAddress s < s.cfg.pixSize ∧ cursorAddress s < addressSpace :=
  ⟨cursorAt 1 1 2 7, ⟨by decide, by decide⟩, by decide, by decide⟩

theorem witness_AdvanceCursorSweepsThePlanes :
    (∃ s : State, s.curRow.toNat < s.height.toNat ∧ s.curCol.toNat < s.width.toNat ∧
      s.curCh.toNat < s.channels.toNat ∧ cursorAddress s + 2 = flatLength s) ∧
    ∀ p ∈ [6, 7], ∃ s : State, s.planeIndex.toNat = p ∧ s.curRow.toNat < s.height.toNat ∧
      s.curCol.toNat < s.width.toNat ∧ s.curCh.toNat < s.channels.toNat ∧
      cursorAddress s + 1 = flatLength s := by
  refine ⟨⟨cursorAt 1 1 1 0, by decide⟩, fun p hp => ⟨cursorAt 1 1 2 (BitVec.ofNat 3 p), ?_⟩⟩
  revert p; decide

/-- R98: the codes of STATUS and CAUSE, at the bit positions of R25, read through the registers. -/
theorem test_codes :
    [runStatus .hdr .cap .p0, runStatus .hdr .enc .p0, runStatus .body .enc .p0, runStatus .hdr .dec .mp,
        Status.reset].map statusWord = [0x1101, 0x2101, 0x2201, 0x7101, 0] ∧
      [Cause.none, .capacityError, .capacityExhausted, .formatError, .illegalCommand].map
        (fun c => csrRead { State.reset with cause := c } 3) = [0, 1, 2, 3, 4] := by decide

/-- CoreStepWritesOnlyItsSlot's clause on PAY: a header step of a decode, and a step of an encode. -/
theorem witness_CoreStepsWithoutPay :
    ∀ s ∈ [decodingP0, encodingP0 .body 64],
      ¬(s.status.opl = .dec ∧ s.status.phase = .body ∧ bodyBit s.slot.toNat = 7) := by decide

/-- For CoreStepCountsOneSlot, EachOperationWritesOneMemory and CoreStepWritesOnlyItsSlot, for both
operations. -/
theorem witness_CoreSteps :
    (∃ s t, MachineInv s ∧ s.status.busy = true ∧ s.status.opl = .enc ∧ coreStep s = .next t) ∧
      ∃ s t, MachineInv s ∧ s.status.busy = true ∧ s.status.opl = .dec ∧ coreStep s = .next t :=
  ⟨⟨encodingP0 .body 64, _, encodingP0_body_inv, rfl, rfl, rfl⟩,
    ⟨decodingP0, _, decodingP0_inv, rfl, rfl, rfl⟩⟩

/-- For AccessesLieInTheBuffer, BackedCommandIsNeverStuck and EveryCommandEnds: an encode in its body. -/
theorem witness_RunningCommand : ∃ s : State, MachineInv s ∧ s.status.busy = true ∧ Undisturbed s ∧
    PixBacked s (flatLength s) ∧ PayBacked s (flatLength s) :=
  ⟨encodingP0 .body 64, encodingP0_body_inv, rfl, rfl, by decide, by decide⟩

/-- AccessesLieInTheBuffer's clauses about a decode in its body, at the last bit of byte 0. -/
theorem witness_AccessesOfADecode :
    (∃ s, MachineInv s ∧ s.status.busy = true ∧ s.status.opl = .dec ∧ s.status.phase = .body ∧
      bodyBit s.slot.toNat = 7 ∧ s.status.varl = .p0) ∧
    ∃ s, MachineInv s ∧ s.status.busy = true ∧ s.status.opl = .dec ∧ s.status.phase = .body ∧
      bodyBit s.slot.toNat = 7 ∧ s.status.varl = .mp ∧ s.slot.toNat + 1 ≠ sweepSlots s :=
  ⟨⟨decodingP0Body, decodingP0Body_inv, rfl, rfl, rfl, by decide, rfl⟩,
    ⟨decodingMpBody, decodingMpBody_inv, rfl, rfl, rfl, by decide, rfl, by decide⟩⟩

/-- Each way a channel byte can be missing: a decode, a header, and the body of an encode whose payload byte
is backed (the last one) or not needed. -/
theorem witness_UnbackedChannelByte :
    (∃ s, MachineInv s ∧ s.status.busy = true ∧ s.cfg.pixSize = slotAddress s ∧ s.status.opl = .dec) ∧
    (∃ s, MachineInv s ∧ s.status.busy = true ∧ s.cfg.pixSize = slotAddress s ∧ s.status.phase = .hdr) ∧
    (∃ s, MachineInv s ∧ s.status.busy = true ∧ s.cfg.pixSize = slotAddress s ∧
      bodyByte s.slot.toNat + 1 = s.cfg.paySize) ∧
    ∃ s, MachineInv s ∧ s.status.busy = true ∧ s.cfg.pixSize = slotAddress s ∧ bodyBit s.slot.toNat ≠ 0 :=
  ⟨⟨backing 0 0 decodingP0, backing_inv decodingP0_inv .., rfl, rfl, rfl⟩,
    ⟨backing 63 0 (encodingP0 .hdr 63), backing_inv encodingP0_header_inv .., rfl, rfl, rfl⟩,
    ⟨backing 64 1 (encodingP0 .body 64), backing_inv encodingP0_body_inv .., rfl, rfl, by decide⟩,
    ⟨backing 71 0 decodingP0Body, backing_inv decodingP0Body_inv .., rfl, rfl, by decide⟩⟩

/-- The payload byte of an encode at `j = 0` and of a decode at `j = 7`, in both variants. -/
theorem witness_UnbackedPayloadByte :
    (∃ s, MachineInv s ∧ s.status.busy = true ∧ s.status.opl = .enc ∧ s.status.phase = .body ∧
      bodyBit s.slot.toNat = 0 ∧ s.cfg.paySize = bodyByte s.slot.toNat) ∧
    ∀ s ∈ [backing 72 0 decodingP0Body, backing 10 0 decodingMpBody],
      s.status.busy = true ∧ s.status.opl = .dec ∧ s.status.phase = .body ∧ bodyBit s.slot.toNat = 7 ∧
      slotAddress s < s.cfg.pixSize ∧ (s.status.varl = .p0 ∨ s.slot.toNat + 1 ≠ sweepSlots s) ∧
      s.cfg.paySize = bodyByte s.slot.toNat ∧ MachineInv s := by
  refine ⟨⟨backing 72 0 (encodingP0 .body 64), backing_inv encodingP0_body_inv .., rfl, rfl, rfl,
    by decide, by decide⟩, fun s hs => ?_⟩
  rcases List.mem_pair.1 hs with rfl | rfl
  · exact ⟨rfl, rfl, rfl, by decide, by decide, .inl rfl, by decide, backing_inv decodingP0Body_inv ..⟩
  · exact ⟨rfl, rfl, rfl, by decide, by decide, .inr (by decide), by decide,
      backing_inv decodingMpBody_inv ..⟩

theorem witness_OnlyTheLastSlotExhausts :
    (∃ s t, MachineInv s ∧ s.status.busy = true ∧ coreStep s = .next t ∧ t.status.fault = true) ∧
      ∃ s t, MachineInv s ∧ s.status.busy = true ∧ coreStep s = .next t ∧ t.status.fault = false :=
  ⟨⟨decodingMp, _, decodingMp_inv, rfl, rfl, rfl⟩,
    ⟨encodingP0 .hdr 63, _, encodingP0_header_inv, rfl, rfl, rfl⟩⟩

theorem witness_ReadsAndCoreStepsCommute : ∃ (s : State) (n : Nat) (rest : List Turn) (t u : State),
    s.status.busy = true ∧ RunsTo 2 { s with turns := .access (.read n) :: .core :: rest } t ∧
      RunsTo 2 { s with turns := .core :: .access (.read n) :: rest } u :=
  ⟨decodingP0, 16, [], _, _, rfl, rfl, rfl⟩

/-- Each clause at the top of the space: bytes for either memory, and a fill of the same length. -/
theorem witness_LoadedBytesReadBack : ∃ (s : State) (a : Nat) (bytes : List Byte) (n : Nat),
    s.status.busy = false ∧ Memory.wf s.pix ∧ Memory.wf s.pay ∧ bytes ≠ [] ∧ n = bytes.length ∧
      a + bytes.length = s.cfg.pixSize ∧ a + bytes.length = s.cfg.paySize ∧
      a + bytes.length = addressSpace :=
  ⟨State.reset, 2 ^ 40 - 1, [0xA5], 1, rfl, Memory.wf_nil, Memory.wf_nil, by decide, by decide, by decide,
    by decide, by decide⟩

/-- R99 on an idle block: LDPAY, RDPAY and FILLPIX. -/
theorem test_load_fill_unload :
    after (takeTurn (.loadPay 3 [0x48, 0x6F]) State.reset) (·.pay) = some [(3, 0x48), (4, 0x6F)] ∧
      after (takeTurn (.readPay 3 2) { State.reset with pay := [(3, 0x48), (4, 0x6F)] }) (·.hostBytes) =
        some [0x48, 0x6F] ∧
      after (takeTurn (.fillPix 5 2 0xFF) State.reset) (·.pix) = some [(5, 0xFF), (6, 0xFF)] := by decide

theorem witness_BusyBlockOwnsTheMemories : ∃ s : State, s.status.busy = true := ⟨decodingMp, rfl⟩

/-- For EncodeP0RunMeetsReference, RoundTripP0 and VariantsAgreeInPlaneZero: a frame that fills plane 0. -/
theorem witness_EncodeP0Run : ∃ s : State, MachineInv s ∧ Accepting s ∧ Undisturbed s ∧ 0 < s.plen.toNat ∧
    frameSlots s.plen.toNat = flatLength s ∧ PixBacked s (frameSlots s.plen.toNat) ∧
    PixBacked s (flatLength s) ∧ PayBacked s (flatLength s) ∧ PayBacked s s.plen.toNat :=
  ⟨idle 3 8 3 1, idle_inv .., idle_accepting .., rfl, by decide, by decide, by decide, by decide, by decide,
    by decide⟩

theorem witness_DecodeP0RunMeetsReference : ∃ s : State, MachineInv s ∧ Accepting s ∧ Undisturbed s ∧
    64 = flatLength s ∧ PixBacked s (flatLength s) ∧ PayBacked s (flatLength s / 8 - 8) :=
  ⟨idle 4 4 4 0, idle_inv .., idle_accepting .., rfl, by decide, by decide, by decide⟩

/-- For EncodeMpRunMeetsReference and RoundTripMp: V9, and the largest payload of V12. -/
theorem witness_EncodeMpRun : ∀ p ∈ [idle 1 5 2 1, idle 2 2 3 3],
    Accepting p ∧ Undisturbed p ∧ 0 < p.plen.toNat ∧ frameSlots p.plen.toNat ≤ precheckSlots p ∧
      frameSlots p.plen.toNat < sweepSlots p ∧ p.plen.toNat + 8 ≤ precheckSlots p / 8 ∧
      p.plen.toNat + 9 = flatLength p ∧ PixBacked p (flatLength p) ∧ PayBacked p p.plen.toNat ∧
      PayBacked p (flatLength p) ∧ MachineInv p := by
  intro p hp
  rcases List.mem_pair.1 hp with rfl | rfl
  · exact ⟨idle_accepting .., rfl, by decide, by decide, by decide, by decide, by decide, by decide,
      by decide, by decide, idle_inv ..⟩
  · exact ⟨idle_accepting .., rfl, by decide, by decide, by decide, by decide, by decide, by decide,
      by decide, by decide, idle_inv ..⟩

/-- The empty payload of RoundTripP0 and RoundTripMp, at the smallest buffers, with another PAY. -/
theorem witness_RoundTripsOfNothing :
    (MachineInv (idle 4 4 4 0) ∧ frameSlots 0 = flatLength (idle 4 4 4 0) ∧ (idle 4 4 4 0).plen = 0) ∧
      (MachineInv (idle 1 3 3 0) ∧ 0 + 8 ≤ precheckSlots (idle 1 3 3 0) / 8 ∧
        0 + 9 = flatLength (idle 1 3 3 0) ∧ (idle 1 3 3 0).plen = 0) ∧
      Memory.wf [(0, 0xA5)] :=
  ⟨⟨idle_inv .., by decide, rfl⟩, ⟨idle_inv .., by decide, by decide, rfl⟩, by decide⟩

theorem witness_EncodeMpOfTheFullSweepFaults : ∀ p ∈ [idle 2 2 2 0, idle 1 3 3 1],
    MachineInv p ∧ Accepting p ∧ Undisturbed p ∧ p.cfg.mpPrecheckSlots = .sweep ∧ 8 ≤ flatLength p ∧
      p.plen.toNat + 8 = flatLength p ∧ PixBacked p (flatLength p) ∧ PayBacked p p.plen.toNat := by
  intro p hp
  rcases List.mem_pair.1 hp with rfl | rfl
  · exact ⟨idle_inv .., idle_accepting .., rfl, rfl, by decide, by decide, by decide, by decide⟩
  · exact ⟨idle_inv .., idle_accepting .., rfl, rfl, by decide, by decide, by decide, by decide⟩

theorem witness_DecodeMpRunMeetsReference : ∃ s : State, MachineInv s ∧ Accepting s ∧ Undisturbed s ∧
    0 < flatLength s ∧ PixBacked s (flatLength s) ∧ PayBacked s (flatLength s - 9) :=
  ⟨idle 1 3 3 0, idle_inv .., idle_accepting .., rfl, by decide, by decide, by decide⟩

/-- Each outcome of the two reference decoders is reached (V4, V6, V11, V13, V14). -/
theorem test_reference_decoders :
    referenceDecodeP0 96 (fun _ => 0) = .noData ∧
      referenceDecodeP0 96 (fun a => if a = 63 then 1 else 0) = .payload [0] ∧
      referenceDecodeMp 8 (fun _ => 0) = .exhausted ∧ referenceDecodeMp 12 (fun _ => 0) = .noData ∧
      referenceDecodeMp 12 (fun _ => 0xFF) = .exhausted := by decide

/-- R187 (d) at `F = 9`. -/
theorem test_reference_decodeMp_nine : referenceDecodeMp 9 (fun _ => 0xFF) = .exhausted := by decide

/-- V9: its buffer spells the payload `A5` in Multi-Plane. -/
theorem test_reference_decodeMp_payload :
    referenceDecodeMp 10 (fun a => [0x00, 0x80, 0x00, 0x40, 0x40, 0x00, 0x40, 0x00, 0x00, 0x40].getD a 0) =
      .payload [0xA5] := by decide

theorem witness_DecodersAgreeUpToMaxP0 :
    bitsValue (fun _ => (0 : Byte).getLsbD 0) 0 64 ≤ 64 / 8 - 8 ∧
      64 / 8 - 8 < bitsValue (fun a => (if a = 63 then (1 : Byte) else 0).getLsbD 0) 0 64 := by decide

end Sys2Proof.Tests
end

section
/-! PROOFS. The statements on the state (spec/10_state.md): the register views, a busy block and the host,
and the invariant of the machine. -/

namespace Sys2Proof.Machine

/-! ### The register views -/

theorem toNat_append_eq_add {m n : Nat} (x : BitVec m) (y : BitVec n) :
    (x ++ y).toNat = x.toNat * 2 ^ n + y.toNat := by
  rw [BitVec.toNat_append, ← Nat.shiftLeft_add_eq_or_of_lt y.isLt, Nat.shiftLeft_eq]

/-- STATUS as a sum of its fields (R25). -/
theorem toNat_statusWord (st : Status) :
    (statusWord st).toNat = st.busy.toNat + 2 * st.done.toNat + 4 * st.fault.toNat +
      8 * st.nodata.toNat + 16 * st.capneg.toNat + 256 * st.phase.code.toNat +
      4096 * st.opl.code.toNat + 16384 * st.varl.code.toNat := by
  rw [statusWord, BitVec.toNat_setWidth_of_le (by decide), statusBits]
  simp only [toNat_append_eq_add, BitVec.toNat_ofBool, BitVec.toNat_ofNat]
  omega

theorem toNat_maskOne (p : BitVec 3) : (maskOne p).toNat = 2 ^ p.toNat := by
  revert p; decide

theorem toNat_maskZero (p : BitVec 3) : (maskZero p).toNat = 255 - 2 ^ p.toNat := by
  revert p; decide

/-- PLANE as a sum of its fields (R35). -/
theorem toNat_planeWord (p : BitVec 3) :
    (planeWord p).toNat = p.toNat + 256 * 2 ^ p.toNat + 65536 * (255 - 2 ^ p.toNat) := by
  rw [planeWord, BitVec.toNat_setWidth_of_le (by decide)]
  simp only [toNat_append_eq_add, toNat_maskOne, toNat_maskZero, BitVec.toNat_ofNat]
  omega

theorem csrRead_reserved (s : State) {n : Nat} (h : 18 ≤ n) : csrRead s n = 0 := by
  obtain ⟨k, rfl⟩ := Nat.exists_eq_add_of_le' h
  rfl

/-- Settles O15: the fields of STATUS add up, and the codes are those of R98. -/
theorem statusFieldsStandAtTheirBits : Obligations.StatusFieldsStandAtTheirBits := by
  intro s
  refine (toNat_statusWord s.status).trans ?_
  cases s.status.phase <;> cases s.status.opl <;> cases s.status.varl <;> rfl

/-- Settles O16, by the sum of PLANE's fields. -/
theorem planeReadsIndexAndMasks : Obligations.PlaneReadsIndexAndMasks :=
  fun s => toNat_planeWord s.planeIndex

/-- Settles O17: a field narrower than 64 bits keeps its value under zero-extension. -/
theorem registersReadZeroExtended : Obligations.RegistersReadZeroExtended := by
  intro s
  have hext {w : Nat} (x : BitVec w) (hw : w ≤ 64) : (x.setWidth 64).toNat = x.toNat :=
    BitVec.toNat_setWidth_of_le hw
  refine ⟨rfl, rfl, fun n => csrRead_reserved s, ?_, rfl, hext s.height (by decide),
    hext s.width (by decide), hext s.channels (by decide), rfl, rfl, rfl, rfl,
    hext s.curRow (by decide), hext s.curCol (by decide), hext s.curCh (by decide),
    hext s.slot (by decide), hext s.shreg (by decide)⟩
  refine (hext s.cause.code (by decide)).trans ?_
  cases s.cause <;> rfl

/-! ### A busy block and the host -/

/-- No command word decodes to a register access. -/
theorem decodeCommand_not_access {c : XWord} {i : Instr} (h : decodeCommand c = .ok i) :
    (∀ n, i ≠ .csrr n) ∧ ∀ n value, i ≠ .csrw n value := by
  unfold decodeCommand commandOfCode at h
  split at h
  · split at h <;> cases h <;> exact ⟨nofun, nofun⟩
  · cases h

/-- While BUSY = 1 every instruction but a register read leaves the state as it is (R22 (d), R95 (1)). -/
theorem exec_busy {s : State} (hb : s.status.busy = true) {i : Instr} (hi : ∀ n, i ≠ .csrr n) :
    exec i s = .next s := by
  cases i with
  | csrr n => exact absurd rfl (hi n)
  | csrw n value => simp [exec, execCsrw, hb]
  | _ => exact commandPort_busy hb

/-- A word at the command port runs the command it decodes to, or takes its fault (R94). -/
theorem hostAccess_cmd (c : XWord) (s : State) :
    (∃ i, decodeCommand c = .ok i ∧ hostAccess (.cmd c) s = exec i s) ∨
      hostAccess (.cmd c) s = illegalCommand c s := by
  cases hd : decodeCommand c with
  | ok i => exact .inl ⟨i, rfl, by simp only [hostAccess, decode, hd]⟩
  | error e => exact .inr (by simp only [hostAccess, decode, hd])

/-- Settles O21: a word that decodes is a command, which BUSY = 1 ignores, and so is an illegal one. -/
theorem busyBlockIgnoresTheHost : Obligations.BusyBlockIgnoresTheHost := by
  intro s w hb
  cases w with
  | read n => rfl
  | write n value => exact exec_busy (i := .csrw n value) hb nofun
  | cmd c =>
    rcases hostAccess_cmd c s with ⟨i, hd, he⟩ | he
    · exact he.trans (exec_busy hb (decodeCommand_not_access hd).1)
    · exact he.trans (commandPort_busy hb)

/-! ### The invariant of a block that is not busy -/

/-- With BUSY = 0 the invariant speaks of the flags and the memories only. -/
theorem MachineInv.of_not_busy {s : State} (hb : s.status.busy = false) (hs : StatusInv s)
    (hx : Memory.wf s.pix) (hy : Memory.wf s.pay) : MachineInv s :=
  ⟨hs, by simp [hb], hx, hy⟩

/-- Every reset meets the invariant, from any state and with any contents of the memories (R260). -/
theorem machineInv_resetBlock (pix pay : List Host.Cell) (s : State) :
    MachineInv (resetBlock pix pay s) :=
  .of_not_busy rfl (by constructor <;> simp [Status.reset]) (Memory.wf_ofCells pix)
    (Memory.wf_ofCells pay)

/-- Settles O3: the reset state is what a reset with empty memories leaves of it. -/
theorem resetMeetsTheInvariant : Obligations.ResetMeetsTheInvariant :=
  machineInv_resetBlock [] [] State.reset

/-- Fault entry meets the invariant whatever phase it leaves (R236): it clears BUSY, DONE and NODATA. -/
theorem machineInv_raise {s : State} {x : Cause} (info : XWord) (hx : x ≠ .none)
    (hc : s.status.capneg = true → s.capbytes = 0) (hpix : Memory.wf s.pix) (hpay : Memory.wf s.pay) :
    MachineInv (raise x info s) :=
  .of_not_busy rfl ⟨by simp, by simp, by simp, by simp, by simp, by simp [hx], hc⟩ hpix hpay

/-- CLR keeps the invariant (R205). -/
theorem MachineInv.clearRecord {s : State} (h : MachineInv s) (hb : s.status.busy = false) :
    MachineInv (clearRecord s) :=
  .of_not_busy hb
    ⟨h.status.busy_iff_running, by simp, by simp, by simp, by simp, by simp, by simp⟩
    h.pix_canonical h.pay_canonical

/-- A capacity command keeps the invariant (R206): a negative capacity is clamped at 0. -/
theorem MachineInv.capacity {s : State} (h : MachineInv s) (hb : s.status.busy = false)
    (hf : s.status.fault = false) (var : Variant) (cap : Int) : MachineInv (capacity var cap s) := by
  refine .of_not_busy hb ⟨h.status.busy_iff_running, by simp [hb], by simp [hb], by simp [hf], by simp,
    h.status.fault_iff_cause, fun hn => ?_⟩ h.pix_canonical h.pay_canonical
  have hneg : cap < 0 := by simpa using hn
  simp [Int.toNat_of_nonpos hneg.le]

/-- Another content of both memories keeps the invariant of a block that is not busy. -/
theorem MachineInv.memories {s : State} (h : MachineInv s) (hb : s.status.busy = false)
    {pix pay : Memory} (hpix : Memory.wf pix) (hpay : Memory.wf pay) :
    MachineInv { s with pix := pix, pay := pay } :=
  .of_not_busy hb { h.status with } hpix hpay

/-- A store into a register changes operands only, which the invariant of a block that is not busy does
not speak of (R202). -/
theorem MachineInv.csrStore {s : State} (h : MachineInv s) (hb : s.status.busy = false) (n : Nat)
    (value : XWord) : MachineInv (csrStore s n value) := by
  unfold Machine.csrStore
  split <;> exact .of_not_busy hb { h.status with } h.pix_canonical h.pay_canonical

/-! ### START -/

/-- The only cause START records is `CapacityError` (R207, spec/60_exceptions.md R231). -/
theorem startCheck_cause {op : Operation} {var : Variant} {s : State} {x : Cause} {info : XWord}
    (h : startCheck op var s = some (x, info)) : x = .capacityError := by
  have hcause {p : Prop} [Decidable p] {i : XWord}
      (hi : (if p then some (Cause.capacityError, i) else none) = some (x, info)) :
      x = .capacityError := by
    split at hi <;> cases hi
    rfl
  cases op with
  | none | cap => cases var <;> cases h
  | enc =>
    cases var with
    | p0 => exact hcause (startCheck_encP0 s ▸ h)
    | mp => exact hcause (startCheck_encMp s ▸ h)
  | dec =>
    cases var with
    | p0 => exact hcause (startCheck_decP0 s ▸ h)
    | mp => exact hcause (startCheck_decMp s ▸ h)

/-- A Plane-0 START that goes has the header, and on an encode the whole frame, inside the buffer. -/
theorem startCheck_p0_fits {op : Operation} {s : State} (ho : op = .enc ∨ op = .dec)
    (h : startCheck op .p0 s = none) :
    64 ≤ flatLength s ∧ (op = .enc → frameSlots s.plen.toNat ≤ flatLength s) := by
  rcases ho with rfl | rfl
  · have hfit := (startCheck_encP0_none s).1 h
    exact ⟨le_trans (Nat.le_add_right _ _) hfit, fun _ => hfit⟩
  · exact ⟨(startCheck_decP0_none s).1 h, by simp⟩

/-- A Multi-Plane START that goes has a buffer, and on an encode has passed its pre-check. -/
theorem startCheck_mp_fits {op : Operation} {s : State} (ho : op = .enc ∨ op = .dec)
    (h : startCheck op .mp s = none) :
    0 < flatLength s ∧ (op = .enc → frameSlots s.plen.toNat ≤ precheckSlots s) := by
  rcases ho with rfl | rfl
  · have hpass := (startCheck_encMp_none s).1 h
    have hsweep : 64 ≤ 8 * flatLength s :=
      (Nat.le_add_right _ _).trans (hpass.trans (precheckSlots_le_sweepSlots s))
    exact ⟨by omega, fun _ => hpass⟩
  · exact ⟨(startCheck_decMp_none s).1 h, by simp⟩

/-- A buffer that is not empty has rows, columns and channels. -/
theorem dimensions_pos {s : State} (h : 0 < flatLength s) :
    0 < s.height.toNat ∧ 0 < s.width.toNat ∧ 0 < s.channels.toNat := by
  simpa [flatLength, CanonicallyOrderedAdd.mul_pos, and_assoc] using h

/-- A START that goes begins a running command (R207, R41). -/
theorem running_startGo {op : Operation} {var : Variant} {s : State} (ho : op = .enc ∨ op = .dec)
    (h : startCheck op var s = none) : Running (startGo op (startReset op var s)) where
  encode_or_decode := ho
  header_slot := by simp
  body_slot := by simp
  rlen_zero := rfl
  encode_length := fun he => if_pos he
  plane_zero := by
    rintro rfl
    obtain ⟨h64, hfit⟩ := startCheck_p0_fits ho h
    refine ⟨rfl, rfl, rfl, rfl, h64, ?_⟩
    rintro (rfl | hbody)
    · exact hfit rfl
    · cases hbody
  multi_plane := by
    rintro rfl
    obtain ⟨hpos, hpass⟩ := startCheck_mp_fits ho h
    obtain ⟨hrow, hcol, hch⟩ := dimensions_pos hpos
    refine ⟨hrow, hcol, hch, ?_, ?_, ?_, ?_⟩
    · exact Nat.mul_pos (by decide) hpos
    · simp [cursorAddress, pixelOffset]
    · simp
    · rintro rfl
      exact hpass rfl

/-- START of an encode or a decode keeps the invariant (R207). -/
theorem MachineInv.start {s : State} (h : MachineInv s) (hf : s.status.fault = false)
    {op : Operation} (ho : op = .enc ∨ op = .dec) (var : Variant) : MachineInv (start op var s) := by
  rcases start_cases op var s with ⟨x, info, hx, he⟩ | ⟨hgo, he⟩ <;> rw [he]
  · exact machineInv_raise info (by simp [startCheck_cause hx]) h.status.capneg_means h.pix_canonical
      h.pay_canonical
  · exact ⟨⟨by simp, by simp, by simp [hf], by simp, by simp, h.status.fault_iff_cause,
      h.status.capneg_means⟩, fun _ => running_startGo ho hgo, h.pix_canonical, h.pay_canonical⟩

/-! ### Host accesses -/

/-- A command word keeps the invariant if its effect does on the states the port lets it reach. -/
theorem commandPort_keeps {b : Bool} {f : State → State} {s t : State} (h : MachineInv s)
    (hf : s.status.busy = false → (s.status.fault = true → b = true) → MachineInv (f s))
    (ht : commandPort b f s = .next t) : MachineInv t := by
  rcases commandPort_cases b f s with he | ⟨hb, hfault, he⟩ <;>
    obtain rfl := Host.Outcome.next.inj (he.symm.trans ht)
  · exact h
  · exact hf hb hfault

/-- The same for a command that the port ignores while FAULT = 1. -/
theorem commandPort_false_keeps {f : State → State} {s t : State} (h : MachineInv s)
    (hf : s.status.busy = false → s.status.fault = false → MachineInv (f s))
    (ht : commandPort false f s = .next t) : MachineInv t :=
  commandPort_keeps h (fun hb hfault => hf hb (by simpa using hfault)) ht

/-- An illegal word keeps the invariant: where the port looks at it, it takes its fault (R94, R234). -/
theorem illegalCommand_keeps {c : XWord} {s t : State} (h : MachineInv s)
    (ht : illegalCommand c s = .next t) : MachineInv t :=
  commandPort_false_keeps h (fun _ _ => machineInv_raise c (by simp) h.status.capneg_means
    h.pix_canonical h.pay_canonical) ht

/-- The eight commands and a register read keep the invariant. -/
theorem exec_keeps_of_not_csrw {i : Instr} (hi : ∀ n value, i ≠ .csrw n value) {s t : State}
    (h : MachineInv s) (ht : exec i s = .next t) : MachineInv t := by
  cases i with
  | nop => exact commandPort_keeps h (fun _ _ => h) ht
  | clr => exact commandPort_keeps h (fun hb _ => h.clearRecord hb) ht
  | capP0 => exact commandPort_false_keeps h (fun hb hf => h.capacity hb hf ..) ht
  | capMp => exact commandPort_false_keeps h (fun hb hf => h.capacity hb hf ..) ht
  | encP0 => exact commandPort_false_keeps h (fun _ hf => h.start hf (.inl rfl) _) ht
  | encMp => exact commandPort_false_keeps h (fun _ hf => h.start hf (.inl rfl) _) ht
  | decP0 => exact commandPort_false_keeps h (fun _ hf => h.start hf (.inr rfl) _) ht
  | decMp => exact commandPort_false_keeps h (fun _ hf => h.start hf (.inr rfl) _) ht
  | csrr n =>
    obtain rfl := Host.Outcome.next.inj ht
    exact h.surroundings s.turns (csrRead s n) s.hostBytes
  | csrw n value => exact absurd rfl (hi n value)

theorem hostAccess_cmd_keeps {c : XWord} {s t : State} (h : MachineInv s)
    (ht : hostAccess (.cmd c) s = .next t) : MachineInv t := by
  rcases hostAccess_cmd c s with ⟨i, hd, he⟩ | he <;> rw [he] at ht
  · exact exec_keeps_of_not_csrw (decodeCommand_not_access hd).2 h ht
  · exact illegalCommand_keeps h ht

/-- A write to CMD is the word at the command port (R24, R203). -/
theorem command_eq_hostAccess (c : XWord) (s : State) : command c s = hostAccess (.cmd c) s := by
  unfold command hostAccess decode decodeCommand commandOfCode
  by_cases hz : cmdZeroField c = 0
  · simp only [hz, ne_eq, not_true_eq_false, if_false, if_true]
    split <;> simp_all [exec]
  · simp only [hz, ne_eq, not_false_eq_true, if_false, if_true]

/-- A host access keeps the invariant, whether or not it decodes. -/
theorem hostAccess_keeps {w : HostWord} {s t : State} (h : MachineInv s)
    (ht : hostAccess w s = .next t) : MachineInv t := by
  cases w with
  | cmd c => exact hostAccess_cmd_keeps h ht
  | read n => exact exec_keeps_of_not_csrw (i := .csrr n) nofun h ht
  | write n value =>
    change execCsrw n value s = .next t at ht
    unfold execCsrw at ht
    split at ht
    · exact Host.Outcome.next.inj ht ▸ h
    · next hb =>
      split at ht
      · exact hostAccess_cmd_keeps h (command_eq_hostAccess value s ▸ ht)
      · exact Host.Outcome.next.inj ht ▸ h.csrStore (by simpa using hb) n value

/-! ### The host's memory accesses -/

/-- A load of PIX keeps the invariant: it lies in the space and BUSY = 0 (R99, spec/20_memory.md R80). -/
theorem storePix_keeps {a : Nat} {bytes : List Byte} {s t : State} (h : MachineInv s)
    (ht : hostMemory (storePix a bytes) s = .next t) : MachineInv t := by
  obtain ⟨hb, ht⟩ := hostMemory_next ht
  unfold storePix at ht
  split at ht
  · next hk =>
    have hin := (backed_iff.1 hk).imp List.length_eq_zero_iff.1 And.right
    exact Host.Outcome.next.inj ht ▸
      h.memories hb (Memory.wf_writeBytes h.pix_canonical hin) h.pay_canonical
  · cases ht

/-- The same for PAY. -/
theorem storePay_keeps {a : Nat} {bytes : List Byte} {s t : State} (h : MachineInv s)
    (ht : hostMemory (storePay a bytes) s = .next t) : MachineInv t := by
  obtain ⟨hb, ht⟩ := hostMemory_next ht
  unfold storePay at ht
  split at ht
  · next hk =>
    have hin := (backed_iff.1 hk).imp List.length_eq_zero_iff.1 And.right
    exact Host.Outcome.next.inj ht ▸
      h.memories hb h.pix_canonical (Memory.wf_writeBytes h.pay_canonical hin)
  · cases ht

/-- An unload changes what the host holds only. -/
theorem fetchPix_keeps {a count : Nat} {s t : State} (h : MachineInv s)
    (ht : hostMemory (fetchPix a count) s = .next t) : MachineInv t := by
  obtain ⟨-, ht⟩ := hostMemory_next ht
  unfold fetchPix at ht
  split at ht
  · exact Host.Outcome.next.inj ht ▸ h.surroundings s.turns s.hostValue _
  · cases ht

/-- The same for PAY. -/
theorem fetchPay_keeps {a count : Nat} {s t : State} (h : MachineInv s)
    (ht : hostMemory (fetchPay a count) s = .next t) : MachineInv t := by
  obtain ⟨-, ht⟩ := hostMemory_next ht
  unfold fetchPay at ht
  split at ht
  · exact Host.Outcome.next.inj ht ▸ h.surroundings s.turns s.hostValue _
  · cases ht

/-- A poll keeps the invariant: it changes what the host holds and its pending turns (R100). -/
theorem MachineInv.waitPoll {s : State} (h : MachineInv s) : MachineInv (waitPoll s) := by
  unfold Machine.waitPoll
  split
  · exact h.surroundings (.core :: .wait :: s.turns) (csrRead s 2) s.hostBytes
  · exact h.surroundings s.turns (csrRead s 2) s.hostBytes

/-! ### The core step -/

/-- A running command between the access of slot `n` and the decision that follows it (R212): SLOT has
counted and the cursor has moved, and PHASE still is that of slot `n`. -/
structure SlotPassed (n : Nat) (v : State) : Prop where
  status : StatusInv v
  busy : v.status.busy = true
  no_fault : v.status.fault = false ∧ v.cause = .none
  no_data_flag : v.status.nodata = false
  slot : v.slot.toNat = n + 1
  encode_or_decode : v.status.opl = .enc ∨ v.status.opl = .dec
  header_slot : v.status.phase = .hdr → n ≤ 63
  body_slot : v.status.phase = .body → 64 ≤ n ∧ n < frameSlots v.lenreg.toNat
  rlen_zero : v.rlen = 0
  encode_length : v.status.opl = .enc → v.lenreg = v.plen
  plane_zero : v.status.varl = .p0 → PlaneZeroRunning v
  multi_plane : v.status.varl = .mp → MultiPlaneRunning v
  pix_canonical : Memory.wf v.pix
  pay_canonical : Memory.wf v.pay

/-- A command that stays in its phase after slot `n` meets the invariant again: the next slot is one of
that phase. -/
theorem SlotPassed.machineInv {n : Nat} {v : State} (h : SlotPassed n v)
    (hhdr : v.status.phase = .hdr → n ≠ 63)
    (hbody : v.status.phase = .body → ¬(bodyBit n = 7 ∧ bodyByte n + 1 = v.lenreg.toNat)) :
    MachineInv v where
  status := h.status
  running _ := {
    encode_or_decode := h.encode_or_decode
    header_slot := fun hp => by
      have hn := h.header_slot hp
      have := hhdr hp
      rw [h.slot]; omega
    body_slot := fun hp => by
      obtain ⟨h64, hlt⟩ := h.body_slot hp
      have hend := hbody hp
      have hn := slot_eq_of_body h64
      have := bodyBit_lt n
      rw [h.slot]
      unfold frameSlots at hlt ⊢
      omega
    rlen_zero := h.rlen_zero
    encode_length := h.encode_length
    plane_zero := h.plane_zero
    multi_plane := h.multi_plane }
  pix_canonical := h.pix_canonical
  pay_canonical := h.pay_canonical

/-- A decode's header that is accepted in Plane-0 leaves room for its frame (R210). -/
theorem headerRejected_false_fits {v : State} (hv : v.status.varl = .p0)
    (h : headerRejected v = false) : frameSlots v.lenreg.toNat ≤ flatLength v := by
  have hle : (v.lenreg.toNat : Int) ≤ maxP0 v := by simp_all [headerRejected]
  unfold maxP0 at hle
  unfold frameSlots
  omega

/-- The body begins at slot 64 of a frame that has one (R210). -/
theorem SlotPassed.enterBody {v : State} (h : SlotPassed 63 v) (hl : v.lenreg ≠ 0)
    (hdec : v.status.opl = .dec → headerRejected v = false) : MachineInv (enterBody v) where
  status := { h.status with busy_iff_running := by simp [h.busy] }
  running _ := {
    encode_or_decode := h.encode_or_decode
    header_slot := by simp
    body_slot := fun _ => by
      have hpos : v.lenreg.toNat ≠ 0 := fun h0 => hl (BitVec.eq_of_toNat_eq h0)
      have hslot : (Machine.enterBody v).slot.toNat = 64 := h.slot
      rw [hslot]
      simp only [enterBody_lenreg, frameSlots]
      omega
    rlen_zero := h.rlen_zero
    encode_length := h.encode_length
    plane_zero := fun hv =>
      { h.plane_zero hv with
        frame_fits := fun _ => by
          rcases h.encode_or_decode with ho | ho
          · exact (h.plane_zero hv).frame_fits (.inl ho)
          · exact headerRejected_false_fits hv (hdec ho) }
    multi_plane := fun hv => { h.multi_plane hv with } }
  pix_canonical := h.pix_canonical
  pay_canonical := h.pay_canonical

/-- A completion keeps the invariant (R209): no fault is recorded, and NODATA = 1 is a decode's with
RLEN 0. -/
theorem machineInv_complete {v : State} (hf : v.status.fault = false ∧ v.cause = .none)
    (hn : v.status.nodata = true → v.status.opl = .dec ∧ v.rlen = 0)
    (hc : v.status.capneg = true → v.capbytes = 0) (hpix : Memory.wf v.pix) (hpay : Memory.wf v.pay) :
    MachineInv (complete v) :=
  .of_not_busy rfl ⟨by simp, by simp, by simp, by simp [hf.1], fun h => ⟨rfl, hn h⟩,
    by simp [hf.1, hf.2], hc⟩ hpix hpay

/-- The decision after a slot restores the invariant (R210, R211). -/
theorem SlotPassed.afterSlot {n : Nat} {v : State} (h : SlotPassed n v) :
    MachineInv (afterSlot n v) := by
  have hcap := h.status.capneg_means
  have hx := h.pix_canonical
  have hy := h.pay_canonical
  have hcomplete : MachineInv (complete v) :=
    machineInv_complete h.no_fault (by simp [h.no_data_flag]) hcap hx hy
  rcases afterSlot_cases n (h.status.busy_iff_running.1 h.busy) h.encode_or_decode with
    ⟨hp, hn, he⟩ | ⟨-, rfl, hl, hdec, he⟩ | ⟨-, -, -, -, he⟩ | ⟨-, -, ho, -, he⟩ |
    ⟨hp, hend, he⟩ | ⟨-, -, -, he⟩ | ⟨-, -, -, he⟩ <;> rw [he]
  · exact h.machineInv (fun _ => hn) (by simp [hp])
  · exact h.enterBody hl hdec
  · exact hcomplete
  · exact machineInv_complete h.no_fault (fun _ => ⟨ho, rfl⟩) hcap hx hy
  · exact h.machineInv (by simp [hp]) (fun _ => hend)
  · exact hcomplete
  · exact machineInv_complete h.no_fault (by simp) hcap hx hy

/-- Delivering the bit of a decode's slot changes LENREG in the header and SHREG and PAY in the body,
none of which the invariant of that phase constrains (R113, R118). -/
theorem SlotPassed.deliverBit {n : Nat} {v w : State} {b : Bool} (h : SlotPassed n v)
    (ho : v.status.opl = .dec) (hd : deliverBit n b v = .ok w) : SlotPassed n w := by
  rcases deliverBit_cases hd with ⟨hp, rfl⟩ | ⟨-, -, rfl⟩ | ⟨-, -, ⟨-, hlt⟩, rfl⟩
  · exact { h with
      status := { h.status with }
      body_slot := fun hb => absurd hb hp
      encode_length := fun he => by simp [ho] at he
      plane_zero := fun hv =>
        { h.plane_zero hv with frame_fits := fun hb => by simp [ho, hp] at hb }
      multi_plane := fun hv =>
        { h.multi_plane hv with precheck_passed := fun he => by simp [ho] at he } }
  · exact { h with
      status := { h.status with }
      plane_zero := fun hv => { h.plane_zero hv with }
      multi_plane := fun hv => { h.multi_plane hv with } }
  · exact { h with
      status := { h.status with }
      plane_zero := fun hv => { h.plane_zero hv with }
      multi_plane := fun hv => { h.multi_plane hv with }
      pay_canonical := Memory.wf_write h.pay_canonical hlt }

/-- The end of a slot that raises nothing, whatever SHREG and PIX hold by then. -/
theorem MachineInv.slotPassed {s : State} (h : MachineInv s) (hb : s.status.busy = true) (g : Byte)
    {m : Memory} (hm : Memory.wf m) (he : (endSlot { s with shreg := g, pix := m }).2 = false) :
    SlotPassed s.slot.toNat (endSlot { s with shreg := g, pix := m }).1 := by
  have hrun := h.running hb
  obtain ⟨-, hfault, hnodata, hcause⟩ := h.busy_flags hb
  rcases hrun.endSlot_cases g m with ⟨-, r, c, ch, p, hnext, hp0, hmp⟩ | ⟨hraised, -⟩
  · rw [hnext]
    exact {
      status := { h.status with }
      busy := hb
      no_fault := ⟨hfault, hcause⟩
      no_data_flag := hnodata
      slot := hrun.slot_add (h.not_idle hb)
      encode_or_decode := hrun.encode_or_decode
      header_slot := hrun.header_slot
      body_slot := hrun.body_slot
      rlen_zero := hrun.rlen_zero
      encode_length := hrun.encode_length
      plane_zero := fun hv => by
        obtain ⟨hr, hc, hch, hp⟩ := hp0 hv
        exact { hrun.plane_zero hv with row_zero := hr, col_zero := hc, ch_zero := hch, plane_zero := hp }
      multi_plane := fun hv => by
        obtain ⟨hr, hc, hch, hsweep, haddr, hplane⟩ := hmp hv
        rw [← hrun.slot_add (h.not_idle hb)] at hsweep haddr hplane
        exact ⟨hr, hc, hch, hsweep, haddr, hplane, (hrun.multi_plane hv).precheck_passed⟩
      pix_canonical := hm
      pay_canonical := h.pay_canonical }
  · simp [hraised] at he

/-- The end of a slot that raises `CapacityExhausted`. -/
theorem MachineInv.raiseExhausted {s : State} (h : MachineInv s) (g : Byte) {m : Memory}
    (hm : Memory.wf m) : MachineInv (raiseExhausted (endSlot { s with shreg := g, pix := m }).1) := by
  obtain ⟨r, c, ch, p, he⟩ := endSlot_frame { s with shreg := g, pix := m }
  rw [he]
  exact machineInv_raise _ (by simp) h.status.capneg_means hm h.pay_canonical

/-- A core step of a busy block keeps the invariant (R212). -/
theorem coreStep_keeps {s t : State} (h : MachineInv s) (hb : s.status.busy = true)
    (ht : coreStep s = .next t) : MachineInv t := by
  obtain ⟨-, ⟨-, b, u, hc, ⟨-, ha⟩, rfl⟩ | ⟨ho, -, ⟨-, rfl⟩ | ⟨he, v, hd, rfl⟩⟩⟩ := coreStep_cases ht
  · obtain ⟨g, rfl⟩ := chooseBit_frame hc
    have hm := Memory.wf_write (v := slotByte b { s with shreg := g }) h.pix_canonical ha
    split
    · exact h.raiseExhausted g hm
    · next he => exact (h.slotPassed hb g hm (Bool.eq_false_iff.2 he)).afterSlot
  · exact h.raiseExhausted s.shreg h.pix_canonical
  · have hv := h.slotPassed hb s.shreg h.pix_canonical he
    have hdec : (endSlot s).1.status.opl = .dec := by
      obtain ⟨r, c, ch, p, hf⟩ := endSlot_frame s
      rw [hf]; exact ho
    exact (hv.deliverBit hdec hd).afterSlot

theorem coreTurn_keeps {s t : State} (h : MachineInv s) (ht : coreTurn s = .next t) :
    MachineInv t := by
  cases hb : s.status.busy with
  | true => exact coreStep_keeps h hb (coreTurn_busy hb ▸ ht)
  | false =>
    rw [coreTurn_idle hb] at ht
    exact Host.Outcome.next.inj ht ▸ h

/-! ### The step -/

/-- Every turn of the host, the core and the platform keeps the invariant (R200). -/
theorem takeTurn_keeps {turn : Turn} {s t : State} (h : MachineInv s)
    (ht : takeTurn turn s = .next t) : MachineInv t := by
  cases turn with
  | access w => exact hostAccess_keeps h ht
  | core => exact coreTurn_keeps h ht
  | loadPix a bytes => exact storePix_keeps h ht
  | fillPix a count byte => exact storePix_keeps h ht
  | loadPay a bytes => exact storePay_keeps h ht
  | readPix a count => exact fetchPix_keeps h ht
  | readPay a count => exact fetchPay_keeps h ht
  | wait => exact Host.Outcome.next.inj ht ▸ h.waitPoll
  | reset pix pay => exact Host.Outcome.next.inj ht ▸ machineInv_resetBlock pix pay s

/-- Settles O4: the invariant does not speak of the pending turns, and every turn keeps it. -/
theorem everyStepKeepsTheInvariant : Obligations.EveryStepKeepsTheInvariant := by
  intro s t h ht
  cases hturns : s.turns with
  | nil => exact coreTurn_keeps h (step_nothing_pending hturns ▸ ht)
  | cons turn rest =>
    have hrest := h.surroundings rest s.hostValue s.hostBytes
    exact takeTurn_keeps hrest (step_turn hturns ▸ ht)

end Sys2Proof.Machine
end

section
/-! PROOFS. The statements on the memories (spec/20_memory.md): who writes PIX and PAY, where the accesses of
a running command lie, and what an unbacked access does. -/

namespace Sys2Proof.Machine

/-! ### The host and the memories of a busy block -/

theorem hostMemory_busy {f : State → Host.Outcome State Fault Refusal} {s : State}
    (hb : s.status.busy = true) : hostMemory f s = .refused .hostMemoryWhileBusy := if_pos hb

/-- Settles O51: each of the five turns is a host memory access. -/
theorem busyBlockOwnsTheMemories : Obligations.BusyBlockOwnsTheMemories :=
  fun _ _ _ _ _ hb => ⟨hostMemory_busy hb, hostMemory_busy hb, hostMemory_busy hb,
    hostMemory_busy hb, hostMemory_busy hb⟩

/-! ### Instructions -/

/-- The outcome is a next state with both memories of `s`. -/
def LeavesMemories (s : State) (o : Host.Outcome State Fault Refusal) : Prop :=
  ∃ t, o = .next t ∧ t.pix = s.pix ∧ t.pay = s.pay

theorem leavesMemories_next {s t : State} (hpix : t.pix = s.pix) (hpay : t.pay = s.pay) :
    LeavesMemories s (.next t) := ⟨t, rfl, hpix, hpay⟩

/-- A command word leaves the memories if its effect does. -/
theorem commandPort_leavesMemories (b : Bool) {f : State → State} {s : State}
    (hpix : (f s).pix = s.pix) (hpay : (f s).pay = s.pay) : LeavesMemories s (commandPort b f s) := by
  rcases commandPort_cases b f s with he | ⟨-, -, he⟩ <;> rw [he]
  · exact leavesMemories_next rfl rfl
  · exact leavesMemories_next hpix hpay

theorem start_memories (op : Operation) (var : Variant) (s : State) :
    (start op var s).pix = s.pix ∧ (start op var s).pay = s.pay := by
  rcases start_cases op var s with ⟨x, info, -, he⟩ | ⟨-, he⟩ <;> rw [he] <;> exact ⟨rfl, rfl⟩

theorem csrStore_memories (s : State) (n : Nat) (value : XWord) :
    (csrStore s n value).pix = s.pix ∧ (csrStore s n value).pay = s.pay := by
  unfold csrStore
  split <;> exact ⟨rfl, rfl⟩

/-- START writes no memory, whether or not it faults (R207). -/
theorem commandPort_start_leavesMemories (op : Operation) (var : Variant) (s : State) :
    LeavesMemories s (commandPort false (start op var) s) :=
  commandPort_leavesMemories false (start_memories op var s).1 (start_memories op var s).2

/-- The eight commands and a register read leave the memories. -/
theorem exec_leavesMemories_of_not_csrw {i : Instr} (hi : ∀ n value, i ≠ .csrw n value) (s : State) :
    LeavesMemories s (exec i s) := by
  cases i with
  | nop => exact commandPort_leavesMemories true rfl rfl
  | clr => exact commandPort_leavesMemories true rfl rfl
  | capP0 => exact commandPort_leavesMemories false rfl rfl
  | capMp => exact commandPort_leavesMemories false rfl rfl
  | encP0 => exact commandPort_start_leavesMemories .enc .p0 s
  | encMp => exact commandPort_start_leavesMemories .enc .mp s
  | decP0 => exact commandPort_start_leavesMemories .dec .p0 s
  | decMp => exact commandPort_start_leavesMemories .dec .mp s
  | csrr n => exact leavesMemories_next rfl rfl
  | csrw n value => exact absurd rfl (hi n value)

/-- A write to CMD leaves the memories, whatever the word (R203). -/
theorem command_leavesMemories (c : XWord) (s : State) : LeavesMemories s (command c s) := by
  rw [command_eq_hostAccess]
  rcases hostAccess_cmd c s with ⟨i, hd, he⟩ | he <;> rw [he]
  · exact exec_leavesMemories_of_not_csrw (decodeCommand_not_access hd).2 s
  · exact commandPort_leavesMemories false rfl rfl

theorem execCsrw_leavesMemories (n : Nat) (value : XWord) (s : State) :
    LeavesMemories s (execCsrw n value s) := by
  obtain ⟨hpix, hpay⟩ := csrStore_memories s n value
  unfold execCsrw
  split_ifs
  · exact leavesMemories_next rfl rfl
  · exact command_leavesMemories value s
  · exact leavesMemories_next hpix hpay

/-- Settles O42: a register write is a store or a command, and no other instruction is a register write. -/
theorem instructionsLeaveTheMemories : Obligations.InstructionsLeaveTheMemories := by
  intro i s
  cases i with
  | csrw n value => exact execCsrw_leavesMemories n value s
  | _ => exact exec_leavesMemories_of_not_csrw (by simp) s

/-! ### What a core step writes -/

theorem endOfHeader_memories (s : State) :
    (endOfHeader s).pix = s.pix ∧ (endOfHeader s).pay = s.pay := by
  unfold endOfHeader
  cases s.status.opl with
  | none | cap => exact ⟨rfl, rfl⟩
  | enc | dec => dsimp only; split <;> exact ⟨rfl, rfl⟩

theorem endOfBody_memories (n : Nat) (s : State) :
    (endOfBody n s).pix = s.pix ∧ (endOfBody n s).pay = s.pay := by
  unfold endOfBody
  split
  · cases s.status.opl <;> exact ⟨rfl, rfl⟩
  · exact ⟨rfl, rfl⟩

theorem afterSlot_memories (n : Nat) (s : State) :
    (afterSlot n s).pix = s.pix ∧ (afterSlot n s).pay = s.pay := by
  unfold afterSlot
  split
  · split
    · exact endOfHeader_memories s
    · exact ⟨rfl, rfl⟩
  · exact endOfBody_memories n s
  · exact ⟨rfl, rfl⟩

@[simp] theorem afterSlot_pix (n : Nat) (s : State) : (afterSlot n s).pix = s.pix :=
  (afterSlot_memories n s).1

@[simp] theorem afterSlot_pay (n : Nat) (s : State) : (afterSlot n s).pay = s.pay :=
  (afterSlot_memories n s).2

@[simp] theorem endSlot_status (s : State) : (endSlot s).1.status = s.status := by
  obtain ⟨r, c, h, p, he⟩ := endSlot_frame s
  rw [he]

@[simp] theorem endSlot_cfg (s : State) : (endSlot s).1.cfg = s.cfg := by
  obtain ⟨r, c, h, p, he⟩ := endSlot_frame s
  rw [he]

@[simp] theorem endSlot_pix (s : State) : (endSlot s).1.pix = s.pix := by
  obtain ⟨r, c, h, p, he⟩ := endSlot_frame s
  rw [he]

@[simp] theorem endSlot_pay (s : State) : (endSlot s).1.pay = s.pay := by
  obtain ⟨r, c, h, p, he⟩ := endSlot_frame s
  rw [he]

/-- A delivery writes PAY at the last bit of a payload byte only, and then that byte (R118). -/
theorem deliverBit_memories {n : Nat} {b : Bool} {s t : State} (h : deliverBit n b s = .ok t) :
    t.pix = s.pix ∧ (t.pay = s.pay ∨ (s.status.phase = .body ∧ bodyBit n = 7) ∧
      ∃ v, t.pay = s.pay.write (bodyByte n) v) := by
  rcases deliverBit_cases h with ⟨-, rfl⟩ | ⟨-, -, rfl⟩ | ⟨hp, hj, -, rfl⟩
  · exact ⟨rfl, .inl rfl⟩
  · exact ⟨rfl, .inl rfl⟩
  · exact ⟨rfl, .inr ⟨⟨hp, hj⟩, _, rfl⟩⟩

/-- What a core step writes, in every state: an encode the channel byte of its slot, a decode at most the
payload byte its slot completes (R212). -/
theorem coreStep_memories {s t : State} (h : coreStep s = .next t) :
    (s.status.opl = .enc ∧ t.pay = s.pay ∧
      ∃ b, t.pix = s.pix.write (slotAddress s) (slotByte b s)) ∨
    (s.status.opl = .dec ∧ t.pix = s.pix ∧ (t.pay = s.pay ∨
      (s.status.phase = .body ∧ bodyBit s.slot.toNat = 7) ∧
        ∃ v, t.pay = s.pay.write (bodyByte s.slot.toNat) v)) := by
  obtain ⟨-, ⟨ho, b, u, hc, -, rfl⟩ | ⟨ho, -, ⟨-, rfl⟩ | ⟨-, v, hd, rfl⟩⟩⟩ := coreStep_cases h
  · obtain ⟨g, rfl⟩ := chooseBit_frame hc
    have hpix : (written b { s with shreg := g }).pix =
        s.pix.write (slotAddress s) (slotByte b s) := rfl
    have hpay : (written b { s with shreg := g }).pay = s.pay := rfl
    refine .inl ⟨ho, ?_, b, ?_⟩ <;> split <;> simp [hpix, hpay]
  · exact .inr ⟨ho, by simp, .inl (by simp)⟩
  · exact .inr ⟨ho, by simpa using deliverBit_memories hd⟩

/-- Settles O41: an encode writes its channel byte, a decode its payload byte. -/
theorem eachOperationWritesOneMemory : Obligations.EachOperationWritesOneMemory := by
  intro s t h
  rcases coreStep_memories h with ⟨ho, hpay, -⟩ | ⟨ho, hpix, -⟩
  · exact ⟨fun hd => by simp [ho] at hd, fun _ => hpay⟩
  · exact ⟨fun _ => hpix, fun he => by simp [ho] at he⟩

/-- The byte an encode leaves differs in bit `plane_index` only: in Plane-0 that index is 0 (R146, R35). -/
theorem getLsbD_slotByte {s : State} (h : Running s) (b : Bool) {q : Nat}
    (hq : q ≠ s.planeIndex.toNat) :
    (slotByte b s).getLsbD q = (s.pix.read (slotAddress s)).getLsbD q := by
  unfold slotByte
  split
  · next hv =>
    have hq0 : q ≠ 0 := by simpa [(h.plane_zero hv).plane_zero] using hq
    rw [getLsbD_withBit0, if_neg hq0]
  · rw [getLsbD_withPlaneBit, if_neg hq]

/-- Settles O43, by what a core step writes and what a read answers after a write. -/
theorem coreStepWritesOnlyItsSlot : Obligations.CoreStepWritesOnlyItsSlot := by
  intro s t h hb ht
  rcases coreStep_memories ht with ⟨-, hpay, b, hpix⟩ | ⟨ho, hpix, hpay⟩
  · rw [hpix, hpay]
    refine ⟨fun a ha => Memory.read_write_other ha.symm, fun q hq => ?_, fun _ => rfl, fun _ _ => rfl⟩
    rw [Memory.read_write_same h.pix_canonical, getLsbD_slotByte (h.running hb) b hq]
  · rw [hpix]
    refine ⟨fun _ _ => rfl, fun _ _ => rfl, ?_⟩
    rcases hpay with hpay | ⟨hlast, v, hpay⟩ <;> rw [hpay]
    · exact ⟨fun _ => rfl, fun _ _ => rfl⟩
    · exact ⟨fun hn => absurd ⟨ho, hlast⟩ hn, fun k hk => Memory.read_write_other hk.symm⟩

/-! ### Where the accesses of a running command lie -/

/-- The channel byte of a running command's slot lies in the buffer (R72 (a)). -/
theorem Running.slotAddress_lt {s : State} (h : Running s) (hp : s.status.phase ≠ .idle) :
    slotAddress s < flatLength s := by
  unfold slotAddress
  split
  · next hv =>
    have k := h.plane_zero hv
    have hfits := k.header_fits
    unfold flatAddress
    cases hph : s.status.phase with
    | idle => exact absurd hph hp
    | hdr => have := h.header_slot hph; omega
    | body => have := (h.body_slot hph).2; have := k.frame_fits (.inr hph); omega
  · next hv =>
    have k := h.multi_plane hv
    have hsweep := k.slot_in_sweep
    rw [k.address_is]
    exact Nat.mod_lt _ (by unfold sweepSlots at hsweep; omega)

/-- The payload byte of a body slot is below the length in LENREG (R41). -/
theorem Running.bodyByte_lt {s : State} (h : Running s) (hp : s.status.phase = .body) :
    bodyByte s.slot.toNat < s.lenreg.toNat := by
  obtain ⟨h64, hlt⟩ := h.body_slot hp
  have := slot_eq_of_body h64
  unfold frameSlots at hlt
  omega

/-- A frame that fits the buffer has a payload of at most `maxP0` bytes (R8). -/
theorem le_maxP0_of_frame_fits {s : State} {len : Nat} (h : frameSlots len ≤ flatLength s) :
    (len : Int) ≤ maxP0 s := by
  unfold frameSlots at h
  unfold maxP0
  omega

theorem maxP0_lt (s : State) : maxP0 s < (flatLength s / 8 : Nat) := by
  unfold maxP0; omega

/-- In Plane-0 the payload of a command in its body, or of an encode, has at most `maxP0` bytes
(R72 (b), (c)). -/
theorem Running.length_le_maxP0 {s : State} (h : Running s) (hv : s.status.varl = .p0)
    (hp : s.status.opl = .enc ∨ s.status.phase = .body) : (s.lenreg.toNat : Int) ≤ maxP0 s :=
  le_maxP0_of_frame_fits ((h.plane_zero hv).frame_fits hp)

/-- The payload of a Multi-Plane encode (R72 (b)). -/
theorem Running.encodeMp_length {s : State} (h : Running s) (hv : s.status.varl = .mp)
    (ho : s.status.opl = .enc) :
    s.lenreg.toNat + 8 ≤ precheckSlots s / 8 ∧ s.lenreg.toNat < flatLength s := by
  have hpass := (h.multi_plane hv).precheck_passed ho
  have hsweep := precheckSlots_le_sweepSlots s
  unfold frameSlots at hpass
  unfold sweepSlots at hsweep
  omega

/-- The payload byte a Multi-Plane decode completes before the last slot of its sweep (R72 (d)). -/
theorem Running.decodeMp_byte {s : State} (h : Running s) (hv : s.status.varl = .mp)
    (hp : s.status.phase = .body) (hj : bodyBit s.slot.toNat = 7)
    (hlast : s.slot.toNat + 1 ≠ sweepSlots s) : bodyByte s.slot.toNat + 1 ≤ flatLength s - 9 := by
  have hslot := slot_eq_of_body (h.body_slot hp).1
  have hsweep := (h.multi_plane hv).slot_in_sweep
  unfold sweepSlots at hsweep hlast
  omega

/-- Settles O44: each bound is a part of the invariant of a running command. -/
theorem accessesLieInTheBuffer : Obligations.AccessesLieInTheBuffer := by
  intro s h hb
  have hrun := h.running hb
  refine ⟨hrun.slotAddress_lt (h.not_idle hb), flatLength_lt s, fun ho hp => ?_, fun _ hp hj =>
    ⟨fun hv => ?_, fun hv hlast => hrun.decodeMp_byte hv hp hj hlast⟩⟩
  · rw [← hrun.encode_length ho]
    exact ⟨hrun.bodyByte_lt hp, fun hv => ⟨hrun.length_le_maxP0 hv (.inl ho), maxP0_lt s⟩,
      fun hv => hrun.encodeMp_length hv ho⟩
  · have := hrun.bodyByte_lt hp
    have := hrun.length_le_maxP0 hv (.inr hp)
    omega

/-- Every payload byte a running command accesses is below `F` (R72): an encode's, and a decode's unless
its slot is the last of a Multi-Plane sweep. -/
theorem Running.payloadByte_lt {s : State} (h : Running s) (hp : s.status.phase = .body)
    (hacc : s.status.opl = .enc ∨
      bodyBit s.slot.toNat = 7 ∧ (s.status.varl = .p0 ∨ s.slot.toNat + 1 ≠ sweepSlots s)) :
    bodyByte s.slot.toNat < flatLength s := by
  have hbyte := h.bodyByte_lt hp
  cases hv : s.status.varl with
  | p0 =>
    have := h.length_le_maxP0 hv (.inr hp)
    have := maxP0_lt s
    omega
  | mp =>
    rcases hacc with ho | ⟨hj, hlast⟩
    · exact hbyte.trans (h.encodeMp_length hv ho).2
    · have := h.decodeMp_byte hv hp hj (by simpa [hv] using hlast)
      omega

/-! ### Backed and unbacked accesses -/

/-- PHASE and SLOT of a running command belong together (R41). -/
theorem MachineInv.phaseMatchesSlot {s : State} (h : MachineInv s) (hb : s.status.busy = true) :
    phaseMatchesSlot s = true := by
  have hrun := h.running hb
  unfold Machine.phaseMatchesSlot
  cases hp : s.status.phase with
  | idle => exact absurd hp (h.not_idle hb)
  | hdr => exact decide_eq_true (hrun.header_slot hp)
  | body => exact decide_eq_true (hrun.body_slot hp).1

theorem MachineInv.coreStep_encode {s : State} (h : MachineInv s) (hb : s.status.busy = true)
    (ho : s.status.opl = .enc) : coreStep s = encodeStep s := by
  simp only [coreStep, h.phaseMatchesSlot hb, ho, if_true]

theorem MachineInv.coreStep_decode {s : State} (h : MachineInv s) (hb : s.status.busy = true)
    (ho : s.status.opl = .dec) : coreStep s = decodeStep s := by
  simp only [coreStep, h.phaseMatchesSlot hb, ho, if_true]

/-- An encode has its bit at hand unless it must load an unbacked payload byte (R117). -/
theorem chooseBit_succeeds {s : State}
    (h : s.status.phase = .body → bodyBit s.slot.toNat = 0 →
      bodyByte s.slot.toNat < s.cfg.paySize ∧ bodyByte s.slot.toNat < addressSpace) :
    ∃ b g, chooseBit s = .ok (b, { s with shreg := g }) := by
  by_cases hp : s.status.phase = .body
  · by_cases hj : bodyBit s.slot.toNat = 0
    · exact ⟨_, _, chooseBit_body_first hp hj (h hp hj)⟩
    · exact ⟨_, _, chooseBit_body_later hp hj⟩
  · exact ⟨_, s.shreg, chooseBit_header hp⟩

/-- A decode delivers its bit unless it completes an unbacked payload byte (R118). -/
theorem deliverBit_succeeds {n : Nat} (b : Bool) {s : State}
    (h : s.status.phase = .body → bodyBit n = 7 →
      bodyByte n < s.cfg.paySize ∧ bodyByte n < addressSpace) : ∃ t, deliverBit n b s = .ok t := by
  by_cases hp : s.status.phase = .body
  · by_cases hj : bodyBit n = 7
    · exact ⟨_, deliverBit_body_last hp hj (h hp hj)⟩
    · exact ⟨_, deliverBit_body_inside hp hj⟩
  · exact ⟨_, deliverBit_header hp⟩

/-- A slot of a running command raises `CapacityExhausted` exactly at the end of a Multi-Plane sweep
(R139). -/
theorem Running.endSlot_raises_iff {s : State} (h : Running s) :
    (endSlot s).2 = true ↔ s.status.varl = .mp ∧ s.slot.toNat + 1 = sweepSlots s := by
  rcases h.endSlot_cases s.shreg s.pix with ⟨he, r, c, ch, p, -, -, hmp⟩ | ⟨he, hv, hlast, -⟩
  · have he' : (endSlot s).2 = false := he
    simp only [he', Bool.false_eq_true, false_iff, not_and]
    intro hv
    obtain ⟨-, -, -, hlt, -⟩ := hmp hv
    exact hlt.ne
  · exact iff_of_true he ⟨hv, hlast⟩

/-- A decode whose slot raises nothing is not at the end of a Multi-Plane sweep. -/
theorem Running.endSlot_quiet_iff {s : State} (h : Running s) :
    (endSlot s).2 = false ↔ s.status.varl = .p0 ∨ s.slot.toNat + 1 ≠ sweepSlots s := by
  rw [← Bool.not_eq_true, h.endSlot_raises_iff]
  cases s.status.varl <;> simp

theorem encodeStep_no_bit {s : State} {r : Fault} (hc : chooseBit s = .error r) :
    encodeStep s = .fault r := by simp only [encodeStep, hc]

theorem encodeStep_unbacked {s : State} {b : Bool} {g : Byte}
    (hc : chooseBit s = .ok (b, { s with shreg := g })) (hb : ¬SlotBacked s) :
    encodeStep s = .fault (.pixNotBacked (slotAddress s)) := by
  have hput : putBit b { s with shreg := g } = .stuck (.pixNotBacked (slotAddress s)) :=
    putBit_unbacked hb
  simp only [encodeStep, hc, hput]

theorem decodeStep_unbacked {s : State} (hb : ¬SlotBacked s) :
    decodeStep s = .fault (.pixNotBacked (slotAddress s)) := by
  simp only [decodeStep, readBit_unbacked hb]

theorem decodeStep_undelivered {s : State} {r : Fault} (hb : SlotBacked s) (he : (endSlot s).2 = false)
    (hd : deliverBit s.slot.toNat (slotBit s) (endSlot s).1 = .error r) : decodeStep s = .fault r := by
  rw [decodeStep, readBit_backed hb]
  rcases h : endSlot s with ⟨u, - | -⟩
  · rw [h] at hd
    simp only [slotResult, hd]
  · simp [h] at he

/-- An encode with its channel byte and the payload byte it loads backed has a step. -/
theorem encodeStep_backed {s : State} (hx : SlotBacked s)
    (hy : s.status.phase = .body → bodyBit s.slot.toNat = 0 →
      bodyByte s.slot.toNat < s.cfg.paySize ∧ bodyByte s.slot.toNat < addressSpace) :
    ∃ t, encodeStep s = .next t := by
  obtain ⟨b, g, hc⟩ := chooseBit_succeeds hy
  exact ⟨_, encodeStep_chosen hc hx⟩

/-- A decode with its channel byte and the payload byte it completes backed has a step. -/
theorem decodeStep_backed {s : State} (hx : SlotBacked s)
    (hy : (endSlot s).2 = false → s.status.phase = .body → bodyBit s.slot.toNat = 7 →
      bodyByte s.slot.toNat < s.cfg.paySize ∧ bodyByte s.slot.toNat < addressSpace) :
    ∃ t, decodeStep s = .next t := by
  cases he : (endSlot s).2 with
  | true => exact ⟨_, decodeStep_exhausted hx he⟩
  | false =>
    obtain ⟨v, hd⟩ := deliverBit_succeeds (n := s.slot.toNat) (slotBit s) (s := (endSlot s).1)
      (by simpa using hy he)
    exact ⟨_, decodeStep_delivered hx he hd⟩

/-- Settles O45: every byte a running command accesses is below `F` (R72). -/
theorem backedCommandIsNeverStuck : Obligations.BackedCommandIsNeverStuck := by
  intro s h hb hpix hpay
  have hrun := h.running hb
  have hspace := flatLength_lt s
  have haddr := hrun.slotAddress_lt (h.not_idle hb)
  have hx : SlotBacked s := ⟨haddr.trans_le hpix, haddr.trans hspace⟩
  rcases hrun.encode_or_decode with ho | ho
  · rw [h.coreStep_encode hb ho]
    refine encodeStep_backed hx fun hp _ => ?_
    have hbyte := hrun.payloadByte_lt hp (.inl ho)
    exact ⟨hbyte.trans_le hpay, hbyte.trans hspace⟩
  · rw [h.coreStep_decode hb ho]
    refine decodeStep_backed hx fun he hp hj => ?_
    have hbyte := hrun.payloadByte_lt hp (.inr ⟨hj, hrun.endSlot_quiet_iff.1 he⟩)
    exact ⟨hbyte.trans_le hpay, hbyte.trans hspace⟩

/-- A running command with its bit at hand is stuck at an unbacked channel byte (R73). -/
theorem MachineInv.coreStep_pix_unbacked {s : State} (h : MachineInv s) (hb : s.status.busy = true)
    (hx : s.cfg.pixSize ≤ slotAddress s)
    (hbit : s.status.opl = .dec ∨ s.status.phase = .hdr ∨ bodyBit s.slot.toNat ≠ 0 ∨
      bodyByte s.slot.toNat < s.cfg.paySize) :
    coreStep s = .fault (.pixNotBacked (slotAddress s)) := by
  have hrun := h.running hb
  have hslot : ¬SlotBacked s := fun hs => absurd hs.1 hx.not_gt
  rcases hrun.encode_or_decode with ho | ho
  · rw [h.coreStep_encode hb ho]
    have hpay : s.status.phase = .body → bodyBit s.slot.toNat = 0 →
        bodyByte s.slot.toNat < s.cfg.paySize ∧ bodyByte s.slot.toNat < addressSpace := fun hp hj =>
      ⟨by simpa [ho, hp, hj] using hbit, (hrun.payloadByte_lt hp (.inl ho)).trans (flatLength_lt s)⟩
    obtain ⟨b, g, hc⟩ := chooseBit_succeeds hpay
    exact encodeStep_unbacked hc hslot
  · rw [h.coreStep_decode hb ho]
    exact decodeStep_unbacked hslot

/-- Settles O46, by the order of a core step: an encode loads its payload byte before the channel byte, a
decode reads the channel byte and ends its slot before the payload byte (R117, R140). -/
theorem unbackedAccessIsStuck : Obligations.UnbackedAccessIsStuck := by
  intro s h hb
  have hrun := h.running hb
  refine ⟨h.coreStep_pix_unbacked hb, fun ho hp hj hy => ?_, fun ho hp hj hx hlast hy => ?_⟩
  · rw [h.coreStep_encode hb ho]
    exact encodeStep_no_bit (chooseBit_body_unbacked hp hj fun hk => absurd hk.1 hy.not_gt)
  · rw [h.coreStep_decode hb ho]
    have haddr := (hrun.slotAddress_lt (h.not_idle hb)).trans (flatLength_lt s)
    refine decodeStep_undelivered ⟨hx, haddr⟩ (hrun.endSlot_quiet_iff.2 hlast)
      (deliverBit_body_unbacked (by simpa using hp) hj fun hk => ?_)
    exact absurd (endSlot_cfg s ▸ hk.1) hy.not_gt

end Sys2Proof.Machine
end

section
/-! PROOFS. The statements on the encoding (spec/30_encoding.md): the command map and its illegal words, the
examination of a CMD write, and the host's loads and fills. -/

namespace Sys2Proof.Machine

/-! ### The command map -/

/-- The eight rows of the command map (R92). -/
def commandMap : List (XWord × Instr) :=
  [(0x0, .nop), (0x2, .capP0), (0x3, .capMp), (0x4, .encP0), (0x5, .encMp), (0x6, .decP0), (0x7, .decMp),
    (0x8, .clr)]

theorem toNat_cmdZeroField (c : XWord) : (cmdZeroField c).toNat = c.toNat / 16 := by
  simp only [cmdZeroField, BitVec.extractLsb'_toNat, Nat.shiftRight_eq_div_pow]
  omega

theorem toNat_cmdCode (c : XWord) : (cmdCode c).toNat = c.toNat % 16 := by
  simp [cmdCode, BitVec.extractLsb'_toNat]

theorem cmdZeroField_eq_zero_iff (c : XWord) : cmdZeroField c = 0 ↔ c.toNat / 16 = 0 := by
  rw [← toNat_cmdZeroField, BitVec.toNat_eq]
  rfl

/-- A word whose bits 63:4 are 0 is its code, zero-extended. -/
theorem setWidth_cmdCode {c : XWord} (h : cmdZeroField c = 0) : (cmdCode c).setWidth 64 = c := by
  have hz := (cmdZeroField_eq_zero_iff c).1 h
  apply BitVec.eq_of_toNat_eq
  rw [BitVec.toNat_setWidth_of_le (by decide), toNat_cmdCode]
  omega

/-- A code that selects a row stands in the map: sixteen codes. -/
theorem commandOfCode_mem_commandMap :
    ∀ code, ∀ i ∈ (commandOfCode code).toOption, (code.setWidth 64, i) ∈ commandMap := by decide

theorem decodeCommand_of_mem_commandMap : ∀ r ∈ commandMap, decodeCommand r.1 = .ok r.2 := by decide

theorem encode_of_mem_commandMap : ∀ r ∈ commandMap, encode r.2 = .cmd r.1 := by decide

/-- The decoder takes exactly the rows of the map (R92). -/
theorem decodeCommand_ok_iff {c : XWord} {i : Instr} :
    decodeCommand c = .ok i ↔ (c, i) ∈ commandMap := by
  refine ⟨fun h => ?_, decodeCommand_of_mem_commandMap (c, i)⟩
  unfold decodeCommand at h
  split at h
  · next hz =>
    rw [← setWidth_cmdCode hz]
    exact commandOfCode_mem_commandMap _ i (by simp [h, Except.toOption])
  · cases h

/-- Settles O8: the eight rows, and two words outside the map. -/
theorem commandMapWords : Obligations.CommandMapWords := by
  unfold Obligations.CommandMapWords
  decide

/-- Settles O9: a register access is taken as it stands, and a command's word is its row's. -/
theorem decodeOfEncode : Obligations.DecodeOfEncode
  | .csrr _ | .csrw _ _ => rfl
  | .nop | .capP0 | .capMp | .encP0 | .encMp | .decP0 | .decMp | .clr => rfl

/-- Settles O10: a word that decodes is a row of the map, where the encoder writes it. -/
theorem encodeOfDecode : Obligations.EncodeOfDecode := by
  intro w i h
  cases w with
  | cmd c => exact encode_of_mem_commandMap (c, i) (decodeCommand_ok_iff.1 h)
  | read n => cases h; rfl
  | write n value => cases h; rfl

/-- Settles O11: the rows the decoder takes are the rows of the map. -/
theorem commandMapIsComplete : Obligations.CommandMapIsComplete := fun _ _ => decodeCommand_ok_iff

/-! ### Illegal words -/

/-- The codes that select no row (R94). -/
theorem commandOfCode_error_iff {code : BitVec 4} {e : DecodeError} :
    commandOfCode code = .error e ↔ e = .noSuchCommand ∧ (code.toNat = 1 ∨ 9 ≤ code.toNat) := by
  cases e <;> revert code <;> decide

/-- The words the decoder refuses (R94). -/
theorem decodeCommand_error_iff (c : XWord) :
    (∃ e, decodeCommand c = .error e) ↔ c.toNat / 16 ≠ 0 ∨ c.toNat % 16 = 1 ∨ 9 ≤ c.toNat % 16 := by
  rw [← toNat_cmdCode]
  unfold decodeCommand
  split
  · next hz => simp [commandOfCode_error_iff, (cmdZeroField_eq_zero_iff c).1 hz]
  · next hz =>
    exact iff_of_true ⟨_, rfl⟩ (.inl (mt (cmdZeroField_eq_zero_iff c).2 hz))

theorem hostAccess_of_decode_ok {w : HostWord} {i : Instr} (h : decode w = .ok i) (s : State) :
    hostAccess w s = exec i s := by simp only [hostAccess, h]

theorem hostAccess_of_decode_error {c : XWord} {e : DecodeError} (h : decode (.cmd c) = .error e)
    (s : State) : hostAccess (.cmd c) s = illegalCommand c s := by simp only [hostAccess, h]

/-- Fault entry reaches STATUS, CAUSE, FINFO and RLEN only (R236). -/
theorem faultTaken_raise (x : Cause) (info : XWord) (s : State) : FaultTaken x info s (raise x info s) where
  status := rfl
  cause := rfl
  finfo := rfl
  rlen := rfl
  registers := by
    intro n hn
    unfold csrRead
    split <;> simp_all
  memories := ⟨fun _ => rfl, fun _ => rfl⟩
  surroundings := ⟨rfl, rfl, rfl, rfl⟩

/-- An illegal word at the port of a block that accepts commands takes its fault (R94, R234). -/
theorem hostAccess_illegal {c : XWord} {e : DecodeError} (h : decode (.cmd c) = .error e) {s : State}
    (hs : Accepting s) :
    ∃ t, hostAccess (.cmd c) s = .next t ∧ FaultTaken .illegalCommand c s t :=
  ⟨_, (hostAccess_of_decode_error h s).trans (commandPort_accepting hs), faultTaken_raise _ c s⟩

/-! ### The examination of a CMD write -/

/-- While BUSY = 1 a word at the command port is ignored (R95 (1)). -/
theorem hostAccess_cmd_busy (c : XWord) {s : State} (hb : s.status.busy = true) :
    hostAccess (.cmd c) s = .next s := busyBlockIgnoresTheHost s (.cmd c) hb

/-- `CSRW CMD, c` is the word `c` at the command port (R24, R203). -/
theorem exec_csrw_cmd (c : XWord) (s : State) : exec (.csrw 1 c) s = hostAccess (.cmd c) s := by
  cases hb : s.status.busy with
  | true => exact (exec_busy hb (by simp)).trans (hostAccess_cmd_busy c hb).symm
  | false => simp [exec, execCsrw, hb, command_eq_hostAccess]

/-- While FAULT = 1 every command but NOP and CLR is ignored (R95 (2)). -/
theorem exec_command_faulted {c : XWord} {i : Instr} (hi : (c, i) ∈ commandMap) (h0 : c ≠ 0) (h8 : c ≠ 8)
    {s : State} (hf : s.status.fault = true) : exec i s = .next s := by
  have hc : encode i = .cmd c := encode_of_mem_commandMap (c, i) hi
  cases i with
  | nop => exact absurd (HostWord.cmd.inj hc).symm h0
  | clr => exact absurd (HostWord.cmd.inj hc).symm h8
  | csrr | csrw => cases hc
  | _ => exact commandPort_faulted hf

theorem hostAccess_cmd_faulted {c : XWord} (h0 : c ≠ 0) (h8 : c ≠ 8) {s : State}
    (hf : s.status.fault = true) : hostAccess (.cmd c) s = .next s := by
  rcases hostAccess_cmd c s with ⟨i, hd, he⟩ | he <;> rw [he]
  · exact exec_command_faulted (decodeCommand_ok_iff.1 hd) h0 h8 hf
  · exact commandPort_faulted hf

/-- Settles O22: the port looks at BUSY, then at FAULT; an illegal word is neither `0x0` nor `0x8`. -/
theorem commandWordsAreExaminedInOrder : Obligations.CommandWordsAreExaminedInOrder := by
  intro s c
  refine ⟨exec_csrw_cmd c s, hostAccess_cmd_busy c, fun _ hf h0 h8 => hostAccess_cmd_faulted h0 h8 hf,
    fun hb hlook => ⟨fun i hd => hostAccess_of_decode_ok hd s, fun e hd => ?_⟩⟩
  have hf : s.status.fault = false := by
    rcases hlook with hf | rfl | rfl
    · exact hf
    · cases hd
    · cases hd
  exact hostAccess_illegal hd ⟨hb, hf⟩

/-- Settles O23: the words the decoder refuses, and the fault entry they cause at either access. -/
theorem illegalWordTakesItsFault : Obligations.IllegalWordTakesItsFault := by
  refine fun c => ⟨decodeCommand_error_iff c, fun s hs hc => ?_⟩
  obtain ⟨e, hd⟩ := (decodeCommand_error_iff c).2 hc
  obtain ⟨t, ht, hfault⟩ := hostAccess_illegal hd hs
  exact ⟨t, ht, (exec_csrw_cmd c s).trans ht, hfault⟩

/-! ### Loads and fills -/

theorem Memory.read_writeBytes_outside {bytes : List Byte} {m : Memory} {a b : Nat} (hm : Memory.wf m)
    (ha : a + bytes.length ≤ addressSpace) (hb : b < a ∨ a + bytes.length ≤ b) :
    Memory.read (Memory.writeBytes m a bytes) b = Memory.read m b := by
  rw [Memory.read_writeBytes hm (.inr ha), if_neg (by omega)]

theorem hostMemory_idle {f : State → Host.Outcome State Fault Refusal} {s : State}
    (hb : s.status.busy = false) : hostMemory f s = f s := by simp [hostMemory, hb]

theorem storePix_idle {s : State} {a : Nat} {bytes : List Byte} (hb : s.status.busy = false)
    (hk : backed s.cfg.pixSize a bytes.length = true) :
    hostMemory (storePix a bytes) s = .next { s with pix := s.pix.writeBytes a bytes } :=
  (hostMemory_idle hb).trans (if_pos hk)

theorem storePay_idle {s : State} {a : Nat} {bytes : List Byte} (hb : s.status.busy = false)
    (hk : backed s.cfg.paySize a bytes.length = true) :
    hostMemory (storePay a bytes) s = .next { s with pay := s.pay.writeBytes a bytes } :=
  (hostMemory_idle hb).trans (if_pos hk)

theorem fetchPix_idle {s : State} {a count : Nat} (hb : s.status.busy = false)
    (hk : backed s.cfg.pixSize a count = true) :
    hostMemory (fetchPix a count) s = .next { s with hostBytes := s.pix.readBytes a count } :=
  (hostMemory_idle hb).trans (if_pos hk)

theorem fetchPay_idle {s : State} {a count : Nat} (hb : s.status.busy = false)
    (hk : backed s.cfg.paySize a count = true) :
    hostMemory (fetchPay a count) s = .next { s with hostBytes := s.pay.readBytes a count } :=
  (hostMemory_idle hb).trans (if_pos hk)

/-- Two pending turns are two steps. -/
theorem runsTo_two_turns {s t u : State} {turn₁ turn₂ : Turn} {rest : List Turn}
    (h₁ : takeTurn turn₁ { s with turns := turn₂ :: rest } = .next t) (ht : t.turns = turn₂ :: rest)
    (h₂ : takeTurn turn₂ { t with turns := rest } = .next u) :
    RunsTo 2 { s with turns := turn₁ :: turn₂ :: rest } u :=
  .head ((step_turn rfl).trans h₁) (.one ((step_turn ht).trans h₂))

/-- A turn that stores bytes into PIX, and the unload of the same range (R70, R99). -/
theorem storePix_reads_back {s : State} {a : Nat} {bytes : List Byte} {store : Turn} (rest : List Turn)
    (hstore : ∀ u, takeTurn store u = hostMemory (storePix a bytes) u) (hb : s.status.busy = false)
    (hm : Memory.wf s.pix) (hsize : a + bytes.length ≤ s.cfg.pixSize)
    (hspace : a + bytes.length ≤ addressSpace) :
    ∃ t, LoadsAndUnloads store (.readPix a bytes.length) rest bytes s t ∧ t.pay = s.pay ∧
      ∀ b, b < a ∨ a + bytes.length ≤ b → t.pix.read b = s.pix.read b := by
  have hbacked : backed s.cfg.pixSize a bytes.length = true := backed_iff.2 (.inr ⟨hsize, hspace⟩)
  have hrun := runsTo_two_turns (rest := rest) (turn₂ := .readPix a bytes.length)
    ((hstore _).trans (storePix_idle hb hbacked)) rfl (fetchPix_idle hb hbacked)
  exact ⟨_, ⟨hrun, Memory.readBytes_writeBytes hm hspace, fun _ _ => rfl, rfl, rfl, rfl⟩, rfl,
    fun _ => Memory.read_writeBytes_outside hm hspace⟩

/-- The same for a load of PAY. -/
theorem loadPay_reads_back {s : State} {a : Nat} {bytes : List Byte} (rest : List Turn)
    (hb : s.status.busy = false) (hm : Memory.wf s.pay) (hsize : a + bytes.length ≤ s.cfg.paySize)
    (hspace : a + bytes.length ≤ addressSpace) :
    ∃ t, LoadsAndUnloads (.loadPay a bytes) (.readPay a bytes.length) rest bytes s t ∧ t.pix = s.pix ∧
      ∀ b, b < a ∨ a + bytes.length ≤ b → t.pay.read b = s.pay.read b := by
  have hbacked : backed s.cfg.paySize a bytes.length = true := backed_iff.2 (.inr ⟨hsize, hspace⟩)
  have hrun := runsTo_two_turns (rest := rest) (turn₁ := .loadPay a bytes)
    (turn₂ := .readPay a bytes.length) (storePay_idle hb hbacked) rfl (fetchPay_idle hb hbacked)
  exact ⟨_, ⟨hrun, Memory.readBytes_writeBytes hm hspace, fun _ _ => rfl, rfl, rfl, rfl⟩, rfl,
    fun _ => Memory.read_writeBytes_outside hm hspace⟩

/-- Settles O50: a fill is a store of copies of its byte. -/
theorem loadedBytesReadBack : Obligations.LoadedBytesReadBack := by
  intro s a bytes n v rest hb
  have hfill := storePix_reads_back (s := s) (a := a) (bytes := List.replicate n v)
    (store := .fillPix a n v) rest (fun _ => rfl) hb
  rw [List.length_replicate] at hfill
  exact ⟨storePix_reads_back rest (fun _ => rfl) hb, hfill, loadPay_reads_back rest hb⟩

end Sys2Proof.Machine
end

section
/-! PROOFS. The statements on the framer and the shifter (spec/40_framer_shifter.md): the number that the bits
shifted into a register spell, `Pack8` and `Ser8`, and the frame. -/

namespace Sys2Proof.Machine

/-! ### The number that bits spell -/

theorem bitsValue_lt (bit : Nat → Bool) (s n : Nat) : bitsValue bit s n < 2 ^ n := by
  induction n with
  | zero => exact Nat.one_pos
  | succ n ih =>
    have hb := (bit (s + n)).toNat_lt
    rw [bitsValue, Nat.pow_succ]
    omega

/-- The first `n` of the `w` bits of `v`, the most significant first, spell the upper part of `v`. -/
theorem bitsValue_eq_div {bit : Nat → Bool} {s w v : Nat} (hv : v < 2 ^ w)
    (hbit : ∀ i, i < w → bit (s + i) = v.testBit (w - 1 - i)) {n : Nat} (hn : n ≤ w) :
    bitsValue bit s n = v / 2 ^ (w - n) := by
  induction n with
  | zero => exact (Nat.div_eq_of_lt hv).symm
  | succ n ih =>
    have hw : w - n = w - 1 - n + 1 := by omega
    have hw' : w - (n + 1) = w - 1 - n := by omega
    rw [bitsValue, ih (by omega), hbit n (by omega), Nat.toNat_testBit, hw, hw', Nat.pow_succ,
      ← Nat.div_div_eq_div_mul]
    omega

/-- All `w` bits of `v` spell `v`. -/
theorem bitsValue_eq {bit : Nat → Bool} {s w v : Nat} (hv : v < 2 ^ w)
    (hbit : ∀ i, i < w → bit (s + i) = v.testBit (w - 1 - i)) : bitsValue bit s w = v := by
  rw [bitsValue_eq_div hv hbit le_rfl, Nat.sub_self, Nat.pow_zero, Nat.div_one]

/-! ### Shifting bits in -/

theorem getLsbD_shiftIn {w : Nat} (x : BitVec w) (b : Bool) {q : Nat} (hq : q < w) :
    (shiftIn x b).getLsbD q = if q = 0 then b else x.getLsbD (q - 1) := by
  rw [shiftIn, BitVec.getLsbD_or, BitVec.getLsbD_shiftLeft, getLsbD_bitWord (by omega)]
  cases q <;> simp [hq]

theorem toNat_bitWord (w : Nat) (b : Bool) : (bitWord w b).toNat = b.toNat % 2 ^ w := by
  rw [bitWord, BitVec.toNat_setWidth, BitVec.toNat_ofBool]

/-- The shift leaves bit 0 free, so the new bit is added. -/
theorem shiftIn_eq_add {w : Nat} (x : BitVec w) (b : Bool) : shiftIn x b = (x <<< 1) + bitWord w b := by
  refine (BitVec.add_eq_or_of_and_eq_zero _ _ (BitVec.eq_of_getLsbD_eq fun q hq => ?_)).symm
  rw [BitVec.getLsbD_and, BitVec.getLsbD_shiftLeft, getLsbD_bitWord (by omega)]
  cases q <;> simp

theorem toNat_shiftIn {w : Nat} (x : BitVec w) (b : Bool) :
    (shiftIn x b).toNat = (2 * x.toNat + b.toNat) % 2 ^ w := by
  rw [shiftIn_eq_add, BitVec.toNat_add, BitVec.toNat_shiftLeft, toNat_bitWord, Nat.shiftLeft_eq,
    Nat.pow_one, Nat.mul_comm, ← Nat.add_mod]

/-- The bits of `n` slots, shifted into a cleared register, spell its content (R116). -/
theorem toNat_foldl_shiftIn {w : Nat} (bit : Nat → Bool) (n : Nat) :
    (((List.range n).map bit).foldl shiftIn 0#w).toNat = bitsValue bit 0 n % 2 ^ w := by
  induction n with
  | zero => simp [bitsValue]
  | succ n ih =>
    rw [List.range_succ, List.map_append, List.foldl_append, List.map_singleton, List.foldl_cons,
      List.foldl_nil, toNat_shiftIn, ih, bitsValue, Nat.zero_add]
    simp [Nat.add_mod, Nat.mul_mod]

/-- `Deser64` of slots 0 to 63 is the number they spell (R113). -/
theorem toNat_deser64 (bit : Nat → Bool) :
    (deser64 ((List.range 64).map bit)).toNat = bitsValue bit 0 64 :=
  (toNat_foldl_shiftIn bit 64).trans (Nat.mod_eq_of_lt (bitsValue_lt bit 0 64))

/-! ### `Pack8` and `Ser8` -/

/-- `Pack8` of eight slots is the number they spell (R118). -/
theorem toNat_pack8 (bit : Nat → Bool) (s : Nat) :
    (pack8 (bit s) (bit (s + 1)) (bit (s + 2)) (bit (s + 3)) (bit (s + 4)) (bit (s + 5)) (bit (s + 6))
      (bit (s + 7))).toNat = bitsValue bit s 8 := by
  have h := bitsValue_lt bit s 8
  simp only [bitsValue, Nat.add_zero] at h ⊢
  rw [pack8, BitVec.toNat_ofNat]
  omega

/-- Settles O35: eight shifts by one drive the old content out of a byte. -/
theorem eightShiftsPackAByte : Obligations.EightShiftsPackAByte := by
  intro x b0 b1 b2 b3 b4 b5 b6 b7
  apply BitVec.eq_of_toNat_eq
  simp only [List.foldl_cons, List.foldl_nil, toNat_shiftIn, pack8, BitVec.toNat_ofNat]
  omega

theorem ser8_eq (v : Byte) :
    ser8 v = [v.getLsbD 7, v.getLsbD 6, v.getLsbD 5, v.getLsbD 4, v.getLsbD 3, v.getLsbD 2,
      v.getLsbD 1, v.getLsbD 0] := rfl

/-- Eight slots that hold `Ser8(v)` pack to `v`. -/
theorem pack8_of_ser8Bit {bit : Nat → Bool} {s : Nat} {v : Byte}
    (hbit : ∀ j, j < 8 → bit (s + j) = ser8Bit v j) :
    pack8 (bit s) (bit (s + 1)) (bit (s + 2)) (bit (s + 3)) (bit (s + 4)) (bit (s + 5)) (bit (s + 6))
      (bit (s + 7)) = v :=
  BitVec.eq_of_toNat_eq ((toNat_pack8 bit s).trans (bitsValue_eq v.isLt hbit))

/-- The bits of `Pack8` are those of eight shifts. -/
theorem ser8_pack8 (b0 b1 b2 b3 b4 b5 b6 b7 : Bool) :
    ser8 (pack8 b0 b1 b2 b3 b4 b5 b6 b7) = [b0, b1, b2, b3, b4, b5, b6, b7] := by
  rw [← eightShiftsPackAByte 0, ser8_eq]
  simp [getLsbD_shiftIn, -BitVec.getLsbD_eq_getElem]

/-- The weighted sum of R115. -/
theorem toNat_pack8_eq_sum (b0 b1 b2 b3 b4 b5 b6 b7 : Bool) :
    (pack8 b0 b1 b2 b3 b4 b5 b6 b7).toNat = b0.toNat * 2 ^ 7 + b1.toNat * 2 ^ 6 + b2.toNat * 2 ^ 5 +
      b3.toNat * 2 ^ 4 + b4.toNat * 2 ^ 3 + b5.toNat * 2 ^ 2 + b6.toNat * 2 + b7.toNat := by
  have h := toNat_pack8 (fun j => [b0, b1, b2, b3, b4, b5, b6, b7].getD j false) 0
  simp only [bitsValue, Nat.zero_add, List.getD_cons_zero, List.getD_cons_succ] at h
  omega

/-- Settles O34: bit `j` of `Ser8` has the weight that `Pack8` gives its argument `j`. -/
theorem packAndSerialiseUndoEachOther : Obligations.PackAndSerialiseUndoEachOther :=
  ⟨fun b0 b1 b2 b3 b4 b5 b6 b7 =>
    ⟨toNat_pack8_eq_sum b0 b1 b2 b3 b4 b5 b6 b7, ser8_pack8 b0 b1 b2 b3 b4 b5 b6 b7⟩,
   fun v => ⟨ser8_eq v, pack8_of_ser8Bit (bit := ser8Bit v) (s := 0) fun j _ => by rw [Nat.zero_add]⟩⟩

/-! ### The frame -/

theorem streamBit_header (len : Nat) (p : Nat → Byte) {i : Nat} (hi : i < 64) :
    streamBit len p i = len.testBit (63 - i) := if_pos hi

theorem streamBit_body (len : Nat) (p : Nat → Byte) (k : Nat) {j : Nat} (hj : j < 8) :
    streamBit len p (64 + 8 * k + j) = ser8Bit (p k) j := by
  have hk : (64 + 8 * k + j - 64) / 8 = k := by omega
  have hr : (64 + 8 * k + j - 64) % 8 = j := by omega
  rw [streamBit, if_neg (by omega), hk, hr, ser8Bit]

/-- Settles O33: the first 64 slots spell `L`, and the eight slots of a payload byte hold its `Ser8`. -/
theorem frameIsInvertible : Obligations.FrameIsInvertible := by
  intro len p slot hlen hslot
  refine ⟨(toNat_deser64 slot).trans (bitsValue_eq hlen fun i hi => ?_), fun k hk =>
    pack8_of_ser8Bit fun j hj => ?_⟩
  · rw [Nat.zero_add, hslot i (by unfold frameSlots; omega), streamBit_header len p hi]
  · rw [hslot _ (by unfold frameSlots; omega), streamBit_body len p k hj]

end Sys2Proof.Machine
end

section
/-! PROOFS. The statements on the sequencer and the cursor (spec/41_sequencer_cursor.md): `PutBit` and
`ReadBit` of each variant, the sweep of `AdvanceCursor`, and the one slot that raises `CapacityExhausted`. -/

namespace Sys2Proof.Machine

/-! ### `PutBit` and `ReadBit` -/

theorem putBitP0_backed (b : Bool) {s : State}
    (h : s.slot.toNat < s.cfg.pixSize ∧ s.slot.toNat < addressSpace) :
    putBitP0 b s = .bit b (nextSlot
      { s with pix := s.pix.write s.slot.toNat (withBit0 (s.pix.read s.slot.toNat) b) }) := by
  have hm := (modifyPix_ok (f := fun v => withBit0 v b)).2 ⟨h, rfl⟩
  simp only [putBitP0, flatAddress, hm]

theorem readBitP0_backed {s : State}
    (h : s.slot.toNat < s.cfg.pixSize ∧ s.slot.toNat < addressSpace) :
    readBitP0 s = .bit ((s.pix.read s.slot.toNat).getLsbD 0) (nextSlot s) := by
  simp only [readBitP0, flatAddress, pixRead_ok.2 ⟨h, rfl⟩]

theorem readBitMp_backed {s : State}
    (h : cursorAddress s < s.cfg.pixSize ∧ cursorAddress s < addressSpace) :
    readBitMp s = advanceWith ((s.pix.read (cursorAddress s)).getLsbD s.planeIndex.toNat) s := by
  simp only [readBitMp, pixRead_ok.2 ⟨h, rfl⟩, planeBit_eq_getLsbD]

theorem advanceWith_eq (b : Bool) (s : State) :
    advanceWith b s = if (advanceCursor (nextSlot s)).2
      then .exhausted (advanceCursor (nextSlot s)).1 else .bit b (advanceCursor (nextSlot s)).1 := by
  unfold advanceWith
  rcases advanceCursor (nextSlot s) with ⟨t, - | -⟩ <;> rfl

/-- Where the cursor goes does not depend on what PIX holds. -/
theorem advanceCursor_pix (s : State) (m : Memory) :
    advanceCursor { s with pix := m } =
      ({ (advanceCursor s).1 with pix := m }, (advanceCursor s).2) := by
  unfold advanceCursor
  split_ifs <;> rfl

/-- PIX after `PutBit.MP(b)` (R135). -/
def planeWritten (b : Bool) (s : State) : Memory :=
  s.pix.write (cursorAddress s) (withPlaneBit s.planeIndex (s.pix.read (cursorAddress s)) b)

theorem read_planeWritten_same (b : Bool) {s : State} (hm : Memory.wf s.pix) :
    (planeWritten b s).read (cursorAddress s) =
      withPlaneBit s.planeIndex (s.pix.read (cursorAddress s)) b := Memory.read_write_same hm

theorem read_planeWritten_other (b : Bool) {s : State} {a : Nat} (ha : a ≠ cursorAddress s) :
    (planeWritten b s).read a = s.pix.read a := Memory.read_write_other ha.symm

/-- The two ends of `PutBit.MP(b)`: the byte is written in both (R135). -/
theorem putBitMp_backed (b : Bool) {s : State}
    (h : cursorAddress s < s.cfg.pixSize ∧ cursorAddress s < addressSpace) :
    putBitMp b s = if (advanceCursor (nextSlot s)).2
      then .exhausted { (advanceCursor (nextSlot s)).1 with pix := planeWritten b s }
      else .bit b { (advanceCursor (nextSlot s)).1 with pix := planeWritten b s } := by
  have hm := (modifyPix_ok (f := fun v => withPlaneBit s.planeIndex v b)).2 ⟨h, rfl⟩
  have hadv : advanceCursor (nextSlot { s with pix := planeWritten b s }) =
      ({ (advanceCursor (nextSlot s)).1 with pix := planeWritten b s },
        (advanceCursor (nextSlot s)).2) := advanceCursor_pix (nextSlot s) _
  simp only [putBitMp, hm]
  rw [← planeWritten, advanceWith_eq, hadv]

/-- Settles O36, by what a read answers after the write of `(v & 0xFE) | b`. -/
theorem putBitP0ReplacesBitZero : Obligations.PutBitP0ReplacesBitZero := by
  intro s b hm hsize hspace
  refine ⟨_, putBitP0_backed b ⟨hsize, hspace⟩, ?_, fun q hq => ?_, fun a ha => ?_, rfl⟩ <;>
    simp only [nextSlot_pix]
  · rw [Memory.read_write_same hm, getLsbD_withBit0, if_pos rfl]
  · rw [Memory.read_write_same hm, getLsbD_withBit0, if_neg (by omega)]
  · exact Memory.read_write_other ha.symm

/-- Settles O37: the write lands before the advance, whose outcome does not depend on it. -/
theorem putBitMpReplacesThePlaneBit : Obligations.PutBitMpReplacesThePlaneBit := by
  intro s b hm hsize hspace
  rw [putBitMp_backed b ⟨hsize, hspace⟩]
  refine ⟨{ (advanceCursor (nextSlot s)).1 with pix := planeWritten b s }, ?_, ?_, fun q _ => ?_,
    fun a ha => read_planeWritten_other b ha, rfl⟩
  · split <;> simp
  · split
    · next hx => exact iff_of_true rfl hx
    · next hx => exact iff_of_false (by simp) hx
  · rw [read_planeWritten_same b hm, getLsbD_withPlaneBit]

/-- Settles O38: in Multi-Plane the bit read is delivered unless the advance raises. -/
theorem readBitAnswersTheAddressedBit : Obligations.ReadBitAnswersTheAddressedBit :=
  fun s => ⟨fun hsize hspace => readBitP0_backed ⟨hsize, hspace⟩,
    fun hsize hspace => (readBitMp_backed ⟨hsize, hspace⟩).trans (advanceWith_eq _ s)⟩

/-! ### The sweep of the cursor -/

/-- Settles O39, by the three ways `AdvanceCursor` can end. -/
theorem advanceCursorSweepsThePlanes : Obligations.AdvanceCursorSweepsThePlanes := by
  intro s hr hc hh
  have hframe : (advanceCursor s).1 = { s with
      curRow := (advanceCursor s).1.curRow, curCol := (advanceCursor s).1.curCol,
      curCh := (advanceCursor s).1.curCh, planeIndex := (advanceCursor s).1.planeIndex } := by
    obtain ⟨r, c, h, p, he⟩ := advanceCursor_frame s
    rw [he]
  rcases advanceCursor_cases hr hc hh with
    ⟨r, c, h, he, hr', hc', hh', haddr, hlt⟩ | ⟨hp, hend, he⟩ | ⟨hp, hend, he⟩
  · refine ⟨fun _ => ?_, fun hend => absurd hend hlt.ne, by omega, hframe⟩
    rw [he]
    exact ⟨rfl, haddr, rfl, hr', hc', hh'⟩
  · refine ⟨fun hlt => absurd hend hlt.ne, fun _ => ?_, by omega, hframe⟩
    rw [he]
    refine ⟨rfl, rfl, rfl, fun _ => ⟨rfl, ?_⟩, fun h7 => absurd h7 hp.ne⟩
    exact BitVec.toNat_add_of_lt (by simp; omega)
  · refine ⟨fun hlt => absurd hend hlt.ne, fun _ => ?_, by omega, hframe⟩
    rw [he]
    exact ⟨rfl, rfl, rfl, fun h7 => absurd h7 (by simp [hp]), fun _ => ⟨rfl, hp⟩⟩

/-! ### `CapacityExhausted` -/

theorem endOfHeader_fault (s : State) : (endOfHeader s).status.fault = s.status.fault := by
  unfold endOfHeader
  cases s.status.opl with
  | none | cap => rfl
  | enc | dec => dsimp only; split <;> rfl

theorem endOfBody_fault (n : Nat) (s : State) : (endOfBody n s).status.fault = s.status.fault := by
  unfold endOfBody
  split
  · cases s.status.opl <;> rfl
  · rfl

/-- The decision after a slot raises nothing (R210, R211). -/
theorem afterSlot_fault (n : Nat) (s : State) : (afterSlot n s).status.fault = s.status.fault := by
  unfold afterSlot
  split
  · split
    · exact endOfHeader_fault s
    · rfl
  · exact endOfBody_fault n s
  · rfl

theorem deliverBit_status {n : Nat} {b : Bool} {s t : State} (h : deliverBit n b s = .ok t) :
    t.status = s.status := by
  rcases deliverBit_cases h with ⟨-, rfl⟩ | ⟨-, -, rfl⟩ | ⟨-, -, -, rfl⟩ <;> rfl

/-- In every state the end of the slot decides whether a core step raises; what the slot did to SHREG and
PIX before that is `g` and `m` (R140, R212). -/
theorem coreStep_fault {s t : State} (h : coreStep s = .next t) :
    ∃ g m, ((endSlot { s with shreg := g, pix := m }).2 = true ∧
        t = raiseExhausted (endSlot { s with shreg := g, pix := m }).1) ∨
      ((endSlot { s with shreg := g, pix := m }).2 = false ∧ t.status.fault = s.status.fault) := by
  obtain ⟨-, ⟨-, b, u, hc, -, rfl⟩ | ⟨-, -, ⟨he, rfl⟩ | ⟨he, v, hd, rfl⟩⟩⟩ := coreStep_cases h
  · obtain ⟨g, rfl⟩ := chooseBit_frame hc
    refine ⟨g, s.pix.write (slotAddress s) (slotByte b { s with shreg := g }), ?_⟩
    split
    · next he => exact .inl ⟨he, rfl⟩
    · next he => exact .inr ⟨Bool.eq_false_iff.2 he, by rw [afterSlot_fault, endSlot_status]; rfl⟩
  · exact ⟨s.shreg, s.pix, .inl ⟨he, rfl⟩⟩
  · exact ⟨s.shreg, s.pix, .inr ⟨he, by rw [afterSlot_fault, deliverBit_status hd, endSlot_status]⟩⟩

/-- The state that `CapacityExhausted` leaves after the last slot of the sweep (R139, R236). -/
theorem endedExhausted_raiseExhausted {s v : State} (hslot : v.slot.toNat = 8 * flatLength s)
    (hcursor : v.curRow = 0 ∧ v.curCol = 0 ∧ v.curCh = 0 ∧ v.planeIndex = 7) :
    EndedExhausted (flatLength s) (raiseExhausted v) := by
  obtain ⟨hrow, hcol, hch, hplane⟩ := hcursor
  have hinfo : (v.slot.setWidth 64).toNat = v.slot.toNat := BitVec.toNat_setWidth_of_le (by decide)
  exact ⟨rfl, rfl, rfl, rfl, rfl, rfl, hinfo.trans hslot, rfl, hrow, hcol, hch, hplane, hslot⟩

/-- Settles O47: the end of the slot raises exactly at the end of a Multi-Plane sweep. -/
theorem onlyTheLastSlotExhausts : Obligations.OnlyTheLastSlotExhausts := by
  intro s t h hb ht
  have hrun := h.running hb
  obtain ⟨-, hfault, -⟩ := h.busy_flags hb
  obtain ⟨g, m, hend⟩ := coreStep_fault ht
  rcases hrun.endSlot_cases g m with ⟨hquiet, r, c, ch, p, -, -, hmp⟩ | ⟨hraised, hv, hlast, hnext⟩
  · obtain ⟨hr, -⟩ | ⟨-, htf⟩ := hend
    · simp [hquiet] at hr
    have ht0 : ¬t.status.fault = true := by simp [htf, hfault]
    refine ⟨iff_of_false ht0 fun ⟨hv, hlast⟩ => ?_, fun htf => absurd htf ht0⟩
    obtain ⟨-, -, -, hlt, -⟩ := hmp hv
    exact hlt.ne hlast
  · obtain ⟨-, rfl⟩ | ⟨hq, -⟩ := hend
    · rw [hnext]
      refine ⟨iff_of_true rfl ⟨hv, hlast⟩, fun _ => endedExhausted_raiseExhausted ?_ ⟨rfl, rfl, rfl, rfl⟩⟩
      exact (hrun.slot_add (h.not_idle hb)).trans hlast
    · simp [hraised] at hq

end Sys2Proof.Machine
end

section
/-! PROOFS. Runs of a whole command, the part both variants share: the phase of a slot, the bit an encode sends
in it, what a decode has received by then, and the decision after it (spec/40_framer_shifter.md,
spec/44_system_commands.md R208 to R212). -/

namespace Sys2Proof.Machine

/-! ### Runs -/

/-- A run whose states are known slot by slot; the last step leads to `t`. -/
theorem runsTo_of_steps {f : Nat → State} {n : Nat} {t : State} (hn : 0 < n)
    (hstep : ∀ i, i < n → step (f i) = .next (if i + 1 = n then t else f (i + 1))) :
    RunsTo n (f 0) t := by
  have hreach : ∀ i, i < n → RunsTo i (f 0) (f i) := by
    intro i
    induction i with
    | zero => exact fun _ => RunsTo.zero _
    | succ i ih =>
      intro hi
      have hs := hstep i (by omega)
      rw [if_neg (by omega)] at hs
      exact (ih (by omega)).trans (.one hs)
  obtain ⟨m, rfl⟩ : ∃ m, n = m + 1 := ⟨n - 1, by omega⟩
  have hlast := hstep m (by omega)
  rw [if_pos rfl] at hlast
  exact (hreach m (by omega)).trans (.one hlast)

/-! ### The phase of a slot -/

/-- The phase in which slot `n` of a frame is accessed (R41). -/
def framePhase (n : Nat) : Phase := if n < 64 then .hdr else .body

theorem framePhase_header {n : Nat} (h : n < 64) : framePhase n = .hdr := if_pos h

theorem framePhase_body {n : Nat} (h : 64 ≤ n) : framePhase n = .body := if_neg (by omega)

/-- A state put into a phase. -/
def inPhase (p : Phase) (s : State) : State := { s with status := { s.status with phase := p } }

@[simp] theorem inPhase_opl (p : Phase) (s : State) : (inPhase p s).status.opl = s.status.opl := rfl
@[simp] theorem inPhase_lenreg (p : Phase) (s : State) : (inPhase p s).lenreg = s.lenreg := rfl

/-- In the phase of its slot, the step of a busy block left alone is its operation's (R212). -/
theorem step_of_framePhase {s : State} {n : Nat} (hq : Undisturbed s) (hb : s.status.busy = true)
    (hslot : s.slot.toNat = n) (hp : s.status.phase = framePhase n) :
    (s.status.opl = .enc → step s = encodeStep s) ∧ (s.status.opl = .dec → step s = decodeStep s) := by
  have hm : phaseMatchesSlot s = true := by
    rw [framePhase] at hp
    split at hp <;> simp only [phaseMatchesSlot, hp, hslot, decide_eq_true_eq] <;> omega
  rw [step_nothing_pending hq, coreTurn_busy hb, coreStep, if_pos hm]
  exact ⟨fun ho => by rw [ho], fun ho => by rw [ho]⟩

/-! ### The bit an encode sends -/

/-- SHREG of an encode that sends the payload `p`, before slot `n`: 0 until the body has begun, and then what
its last slot left of a payload byte (R117). -/
def sendRegister (p : Nat → Byte) (n : Nat) : Byte :=
  if n ≤ 64 then 0 else p (bodyByte (n - 1)) <<< (bodyBit (n - 1) + 1)

theorem sendRegister_header (p : Nat → Byte) {n : Nat} (h : n ≤ 64) : sendRegister p n = 0 := if_pos h

theorem sendRegister_succ (p : Nat → Byte) {n : Nat} (h : 64 ≤ n) :
    sendRegister p (n + 1) = p (bodyByte n) <<< (bodyBit n + 1) := by
  rw [sendRegister, if_neg (by omega), Nat.add_sub_cancel]

/-- Inside a payload byte the register holds its bits that are still to be sent. -/
theorem sendRegister_inside (p : Nat → Byte) {n : Nat} (h : 64 ≤ n) (hj : bodyBit n ≠ 0) :
    sendRegister p n = p (bodyByte n) <<< bodyBit n := by
  obtain ⟨m, rfl⟩ : ∃ m, n = m + 1 := ⟨n - 1, by omega⟩
  unfold bodyBit at hj
  have hbyte : bodyByte m = bodyByte (m + 1) := by unfold bodyByte; omega
  have hbit : bodyBit m + 1 = bodyBit (m + 1) := by unfold bodyBit; omega
  rw [sendRegister_succ p (by omega), hbyte, hbit]

/-- Eight shifts with zero fill leave 0: the end of a frame with a payload (R163). -/
theorem sendRegister_frame_end (p : Nat → Byte) {len : Nat} (h : 0 < len) :
    sendRegister p (frameSlots len) = 0 := by
  obtain ⟨m, hm⟩ : ∃ m, frameSlots len = m + 1 := ⟨64 + 8 * len - 1, by unfold frameSlots; omega⟩
  have hbit : bodyBit m = 7 := by unfold frameSlots at hm; unfold bodyBit; omega
  rw [hm, sendRegister_succ p (by unfold frameSlots at hm; omega), hbit]
  exact BitVec.shiftLeft_eq_zero (by decide)

/-- An encode sends the bits of its frame, the header's and then the payload's (R110, R112, R117). -/
theorem chooseBit_streamBit {s : State} {n : Nat} (hslot : s.slot.toNat = n)
    (hp : s.status.phase = framePhase n) (hreg : s.shreg = sendRegister s.pay.read n)
    (hpay : 64 ≤ n → bodyByte n < s.cfg.paySize ∧ bodyByte n < addressSpace) :
    chooseBit s = .ok (streamBit s.lenreg.toNat s.pay.read n,
      { s with shreg := sendRegister s.pay.read (n + 1) }) := by
  subst hslot
  rcases Nat.lt_or_ge s.slot.toNat 64 with hn | hn
  · have hkeep : s.shreg = sendRegister s.pay.read (s.slot.toNat + 1) := by
      rw [hreg, sendRegister_header _ hn.le, sendRegister_header _ hn]
    rw [chooseBit_header (by simp [hp, framePhase_header hn]), ← hkeep, streamBit_header _ _ hn]
    rfl
  · have hbody : s.status.phase = .body := hp.trans (framePhase_body hn)
    have hbit : streamBit s.lenreg.toNat s.pay.read s.slot.toNat =
        (s.pay.read (bodyByte s.slot.toNat)).getLsbD (7 - bodyBit s.slot.toNat) := if_neg (by omega)
    rw [hbit, sendRegister_succ _ hn]
    by_cases hj : bodyBit s.slot.toNat = 0
    · rw [chooseBit_body_first hbody hj (hpay hn), hj]
    · have hlt := bodyBit_lt s.slot.toNat
      rw [chooseBit_body_later hbody hj, hreg, sendRegister_inside _ hn hj, BitVec.getLsbD_shiftLeft,
        BitVec.shiftLeft_add]
      simp [show ¬7 < bodyBit s.slot.toNat by omega]

/-! ### The decision after a slot -/

/-- Inside the header the next slot is one of the header. -/
theorem afterSlot_header_inside (s : State) {n : Nat} (hn : n < 63) :
    afterSlot n (inPhase (framePhase n) s) = inPhase (framePhase (n + 1)) s := by
  rw [framePhase_header (show n < 64 by omega), framePhase_header (show n + 1 < 64 by omega)]
  exact if_neg (by omega)

/-- The last slot of a frame is the last bit of its last payload byte (R211). -/
theorem last_body_slot_iff {n len : Nat} (h : 64 ≤ n) :
    bodyBit n = 7 ∧ bodyByte n + 1 = len ↔ n + 1 = frameSlots len := by
  unfold bodyBit bodyByte frameSlots
  omega

/-- A body slot of a frame belongs to a byte of its payload. -/
theorem bodyByte_lt_of_frame {n len : Nat} (h : 64 ≤ n) (hn : n < frameSlots len) : bodyByte n < len := by
  unfold frameSlots at hn
  unfold bodyByte
  omega

theorem bodyByte_le (n : Nat) : bodyByte n ≤ n := (Nat.div_le_self _ _).trans (Nat.sub_le _ _)

/-- Inside the body the next slot is one of the body. -/
theorem afterSlot_body_inside (s : State) {n : Nat} (h : 64 ≤ n)
    (hn : n + 1 ≠ frameSlots s.lenreg.toNat) :
    afterSlot n (inPhase (framePhase n) s) = inPhase (framePhase (n + 1)) s := by
  rw [framePhase_body h, framePhase_body (show 64 ≤ n + 1 by omega)]
  exact if_neg fun hl => hn ((last_body_slot_iff h).1 hl)

/-- After the last slot of the body an encode is complete and a decode has its payload (R211). -/
theorem afterSlot_body_end {s : State} {n : Nat} (h : 64 ≤ n)
    (hn : n + 1 = frameSlots s.lenreg.toNat) :
    (s.status.opl = .enc → afterSlot n (inPhase (framePhase n) s) = complete s) ∧
      (s.status.opl = .dec → afterSlot n (inPhase (framePhase n) s) = completeWithData s) := by
  have hend : afterSlot n (inPhase .body s) = endOfBody n (inPhase .body s) := rfl
  rw [framePhase_body h, hend, endOfBody, inPhase_lenreg, if_pos ((last_body_slot_iff h).2 hn)]
  exact ⟨fun ho => by rw [inPhase_opl, ho]; rfl, fun ho => by rw [inPhase_opl, ho]; rfl⟩

/-- After a slot an encode is complete at the end of its frame, and else in the next slot's phase (R210,
R211). -/
theorem afterSlot_encode {s : State} {n : Nat} (ho : s.status.opl = .enc)
    (hn : n < frameSlots s.lenreg.toNat) :
    afterSlot n (inPhase (framePhase n) s) =
      if n + 1 = frameSlots s.lenreg.toNat then complete s else inPhase (framePhase (n + 1)) s := by
  rcases Nat.lt_trichotomy n 63 with h | rfl | h
  · rw [afterSlot_header_inside s h, if_neg (by unfold frameSlots; omega)]
  · have hdecide : afterSlot 63 (inPhase (framePhase 63) s) =
        if s.lenreg = 0 then complete s else inPhase (framePhase 64) s := by
      change endOfHeader (inPhase .hdr s) = _
      rw [endOfHeader, inPhase_opl, ho]
      rfl
    have hempty : 63 + 1 = frameSlots s.lenreg.toNat ↔ s.lenreg = 0 := by
      rw [BitVec.toNat_eq, frameSlots]
      simp only [BitVec.ofNat_eq_ofNat, BitVec.toNat_ofNat, Nat.zero_mod]
      omega
    simp only [hdecide, hempty]
  · split
    · next hend => exact (afterSlot_body_end h hend).1 ho
    · next hend => exact afterSlot_body_inside s h hend

/-- After the header a decode is done, or in its body (R210). -/
theorem afterSlot_decode_header_end {s : State} (ho : s.status.opl = .dec) :
    afterSlot 63 (inPhase (framePhase 63) s) =
      if headerRejected s then completeNoData s else inPhase (framePhase 64) s := by
  change endOfHeader (inPhase .hdr s) = _
  rw [endOfHeader, inPhase_opl, ho]
  rfl

/-- After a slot of its body a decode has its payload at the end of the frame, and else goes on (R211). -/
theorem afterSlot_decode_body {s : State} {n : Nat} (ho : s.status.opl = .dec) (h : 64 ≤ n) :
    afterSlot n (inPhase (framePhase n) s) =
      if n + 1 = frameSlots s.lenreg.toNat then completeWithData s else inPhase (framePhase (n + 1)) s := by
  split
  · next hend => exact (afterSlot_body_end h hend).2 ho
  · next hend => exact afterSlot_body_inside s h hend

/-! ### What a decode has received -/

/-- A bit shifted in behind `n` others: the register holds the low bits of the number they spell. -/
theorem shiftIn_bitsValue {w : Nat} (bit : Nat → Bool) (s n : Nat) :
    shiftIn (BitVec.ofNat w (bitsValue bit s n)) (bit (s + n)) = BitVec.ofNat w (bitsValue bit s (n + 1)) := by
  apply BitVec.eq_of_toNat_eq
  rw [toNat_shiftIn, BitVec.toNat_ofNat, BitVec.toNat_ofNat, bitsValue]
  simp [Nat.add_mod, Nat.mul_mod]

/-- A number is spelled by its first bits and then by the rest. -/
theorem bitsValue_add (bit : Nat → Bool) (s m n : Nat) :
    bitsValue bit s (m + n) = bitsValue bit s m * 2 ^ n + bitsValue bit (s + m) n := by
  induction n with
  | zero => simp [bitsValue]
  | succ n ih =>
    rw [← Nat.add_assoc, bitsValue, ih, bitsValue, Nat.pow_succ, Nat.add_assoc s]
    ring

/-- LENREG of a decode that reads `bit`, before slot `n` (R113). -/
def receivedLength (bit : Nat → Bool) (n : Nat) : XWord := BitVec.ofNat 64 (bitsValue bit 0 (min n 64))

/-- SHREG of a decode that reads `bit`, before slot `n`: the low byte of the body bits received (R118). -/
def receivedRegister (bit : Nat → Bool) (n : Nat) : Byte := BitVec.ofNat 8 (bitsValue bit 64 (n - 64))

/-- Payload byte `k` of a frame that spells `bit`. -/
def receivedByte (bit : Nat → Bool) (k : Nat) : Byte := BitVec.ofNat 8 (bitsValue bit (64 + 8 * k) 8)

/-- PAY of a decode that reads `bit`, after `k` payload bytes (R118). -/
def receivedPay (bit : Nat → Bool) (pay : Memory) : Nat → Memory
  | 0 => pay
  | k + 1 => (receivedPay bit pay k).write k (receivedByte bit k)

theorem receivedLength_succ (bit : Nat → Bool) {n : Nat} (h : n < 64) :
    receivedLength bit (n + 1) = shiftIn (receivedLength bit n) (bit n) := by
  have hshift := shiftIn_bitsValue (w := 64) bit 0 n
  rw [Nat.zero_add] at hshift
  rw [receivedLength, receivedLength, Nat.min_eq_left h.le, Nat.min_eq_left h, hshift]

theorem receivedLength_body (bit : Nat → Bool) {n : Nat} (h : 64 ≤ n) :
    receivedLength bit n = receivedLength bit 64 := by
  rw [receivedLength, receivedLength, Nat.min_eq_right h, Nat.min_self]

/-- After the header LENREG holds the number its 64 slots spell. -/
theorem toNat_receivedLength (bit : Nat → Bool) {n : Nat} (h : 64 ≤ n) :
    (receivedLength bit n).toNat = bitsValue bit 0 64 := by
  rw [receivedLength, Nat.min_eq_right h, BitVec.toNat_ofNat, Nat.mod_eq_of_lt (bitsValue_lt bit 0 64)]

theorem receivedRegister_header (bit : Nat → Bool) {n : Nat} (h : n ≤ 64) : receivedRegister bit n = 0 := by
  rw [receivedRegister, Nat.sub_eq_zero_of_le h]
  rfl

theorem receivedRegister_succ (bit : Nat → Bool) {n : Nat} (h : 64 ≤ n) :
    receivedRegister bit (n + 1) = shiftIn (receivedRegister bit n) (bit n) := by
  have hshift := shiftIn_bitsValue (w := 8) bit 64 (n - 64)
  rw [Nat.add_sub_cancel' h] at hshift
  rw [receivedRegister, receivedRegister, hshift, Nat.sub_add_comm h]

/-- At the end of a payload byte the register holds that byte (R118). -/
theorem receivedRegister_byte_end (bit : Nat → Bool) (k : Nat) :
    receivedRegister bit (frameSlots (k + 1)) = receivedByte bit k := by
  have hn : frameSlots (k + 1) - 64 = 8 * k + 8 := by unfold frameSlots; omega
  apply BitVec.eq_of_toNat_eq
  rw [receivedRegister, receivedByte, hn, bitsValue_add, BitVec.toNat_ofNat, BitVec.toNat_ofNat]
  omega

theorem wf_receivedPay (bit : Nat → Bool) {pay : Memory} (hm : Memory.wf pay) {k : Nat}
    (hk : k ≤ addressSpace) : Memory.wf (receivedPay bit pay k) := by
  induction k with
  | zero => exact hm
  | succ k ih => exact Memory.wf_write (ih (by omega)) (by omega)

theorem read_receivedPay (bit : Nat → Bool) {pay : Memory} (hm : Memory.wf pay) {k : Nat}
    (hk : k ≤ addressSpace) (a : Nat) :
    (receivedPay bit pay k).read a = if a < k then receivedByte bit a else pay.read a := by
  induction k with
  | zero => rfl
  | succ k ih =>
    rw [receivedPay, Memory.read_write (wf_receivedPay bit hm (by omega)), ih (by omega)]
    rcases Nat.lt_trichotomy a k with h | rfl | h
    · rw [if_neg h.ne', if_pos h, if_pos (by omega)]
    · rw [if_pos rfl, if_pos (by omega)]
    · rw [if_neg h.ne, if_neg (by omega), if_neg (by omega)]

/-- The payload a decode has left in PAY is the one its slots spell. -/
theorem readBytes_receivedPay (bit : Nat → Bool) {pay : Memory} (hm : Memory.wf pay) {len : Nat}
    (hlen : len ≤ addressSpace) : (receivedPay bit pay len).readBytes 0 len = payloadOf bit len := by
  refine List.map_congr_left fun k hk => ?_
  rw [Nat.zero_add, read_receivedPay bit hm hlen, if_pos (List.mem_range.1 hk), receivedByte]

/-- The registers and PAY of a decode that reads `bit`, before slot `n`; `pay` is what PAY held at its
START. -/
def received (bit : Nat → Bool) (pay : Memory) (n : Nat) (s : State) : State :=
  { s with
    lenreg := receivedLength bit n
    shreg := receivedRegister bit n
    pay := receivedPay bit pay (bodyByte n) }

/-- A decode that delivers the bit of slot `n` has received one bit more (R113, R118). -/
theorem deliverBit_received {bit : Nat → Bool} {pay : Memory} {n : Nat} {s : State}
    (hp : s.status.phase = framePhase n)
    (hpay : 64 ≤ n → bodyByte n < s.cfg.paySize ∧ bodyByte n < addressSpace) :
    deliverBit n (bit n) (received bit pay n s) = .ok (received bit pay (n + 1) s) := by
  rcases Nat.lt_or_ge n 64 with hn | hn
  · have hhdr : (received bit pay n s).status.phase ≠ .body := by
      rw [show (received bit pay n s).status.phase = .hdr from hp.trans (framePhase_header hn)]
      decide
    have hbyte : bodyByte (n + 1) = bodyByte n := by unfold bodyByte; omega
    rw [deliverBit_header hhdr]
    simp only [received, receivedLength_succ bit hn, receivedRegister_header bit hn.le,
      receivedRegister_header bit (show n + 1 ≤ 64 from hn), hbyte]
  · have hbody : (received bit pay n s).status.phase = .body := hp.trans (framePhase_body hn)
    have hlen : receivedLength bit (n + 1) = receivedLength bit n := by
      rw [receivedLength_body bit hn, receivedLength_body bit (by omega)]
    by_cases hj : bodyBit n = 7
    · have hbyte : bodyByte (n + 1) = bodyByte n + 1 := by unfold bodyBit at hj; unfold bodyByte; omega
      have hend : n + 1 = frameSlots (bodyByte n + 1) := (last_body_slot_iff hn).1 ⟨hj, rfl⟩
      have hreg : receivedRegister bit (n + 1) = receivedByte bit (bodyByte n) := by
        rw [hend, receivedRegister_byte_end]
      rw [deliverBit_body_last hbody hj (hpay hn)]
      simp only [received, hlen, hbyte, receivedPay, ← receivedRegister_succ bit hn, hreg]
    · have hbyte : bodyByte (n + 1) = bodyByte n := by unfold bodyBit at hj; unfold bodyByte; omega
      rw [deliverBit_body_inside hbody hj]
      simp only [received, hlen, hbyte, receivedRegister_succ bit hn]

end Sys2Proof.Machine
end

section
/-! PROOFS. The capacity query of the Plane-0 codec (spec/42_plane0_codec.md R161, R162). -/

namespace Sys2Proof.Machine

/-! ### What a capacity query leaves -/

theorem exec_capP0 {s : State} (hs : Accepting s) : exec .capP0 s = .next (capacity .p0 (maxP0 s) s) :=
  commandPort_accepting hs

theorem exec_capMp {s : State} (hs : Accepting s) :
    exec .capMp s = .next (capacity .mp (capacityMp s) s) :=
  commandPort_accepting hs

/-- A capacity query reaches STATUS and CAPBYTES only (R206). -/
theorem capacity_registers (var : Variant) (cap : Int) (s : State) :
    SameRegistersBut [2, 11] s (capacity var cap s) := by
  intro n hn
  unfold csrRead
  split <;> simp_all

/-- CAPBYTES holds a capacity that fits, clamped at 0. -/
theorem toNat_capacity_capbytes (var : Variant) {cap : Int} (hcap : cap < 2 ^ 64) (s : State) :
    (capacity var cap s).capbytes.toNat = cap.toNat := by
  rw [capacity_capbytes, BitVec.toNat_ofNat, Nat.mod_eq_of_lt (by omega)]

/-- A query leaves the flags that let a block accept commands. -/
theorem Accepting.capacity {s : State} (hs : Accepting s) (var : Variant) (cap : Int) :
    Accepting (capacity var cap s) := hs

theorem maxP0_neg_iff (s : State) : maxP0 s < 0 ↔ flatLength s < 64 := by
  unfold maxP0; omega

theorem toNat_maxP0 (s : State) : (maxP0 s).toNat = flatLength s / 8 - 8 := by
  unfold maxP0; omega

theorem toNat_capacityP0_capbytes (s : State) :
    (capacity .p0 (maxP0 s) s).capbytes.toNat = flatLength s / 8 - 8 := by
  have hbound := maxP0_lt s
  have hflat := flatLength_lt s
  rw [addressSpace_eq] at hflat
  rw [toNat_capacity_capbytes .p0 (by omega), toNat_maxP0]

/-- Settles O26: the capacity is below `2^37`, and negative exactly below 64 channel bytes. -/
theorem capP0ReportsCapacity : Obligations.CapP0ReportsCapacity := by
  intro s hs
  refine ⟨_, exec_capP0 hs, toNat_capacityP0_capbytes s, ?_, capacity_registers .p0 _ s,
    ⟨fun _ => rfl, fun _ => rfl⟩, rfl, rfl, rfl, rfl⟩
  simp only [capacity_status, Status.afterCap, maxP0_neg_iff]

/-- Settles O29: the second query meets the same capacity and writes what stands there. -/
theorem capacityQueryIsIdempotent : Obligations.CapacityQueryIsIdempotent := by
  refine fun s t hs => ⟨fun ht => ?_, fun ht => ?_⟩
  · obtain rfl := Host.Outcome.next.inj ((exec_capP0 hs).symm.trans ht)
    exact exec_capP0 (hs.capacity .p0 _)
  · obtain rfl := Host.Outcome.next.inj ((exec_capMp hs).symm.trans ht)
    exact exec_capMp (hs.capacity .mp _)

/-! ### The encode boundary -/

theorem exec_encP0 {s : State} (hs : Accepting s) : exec .encP0 s = .next (start .enc .p0 s) :=
  commandPort_accepting hs

/-- ENC.P0 starts exactly when its frame fits, and else records `CapacityError` (R162, R207). -/
theorem start_encP0_outcome (s : State) :
    ((start .enc .p0 s).status.busy = true ↔ frameSlots s.plen.toNat ≤ flatLength s) ∧
      ((start .enc .p0 s).status.busy = false → (start .enc .p0 s).cause = .capacityError) := by
  have hcheck := startCheck_encP0_none (startReset .enc .p0 s)
  rcases start_cases .enc .p0 s with ⟨x, info, hx, he⟩ | ⟨hgo, he⟩ <;> rw [he]
  · refine ⟨iff_of_false (by simp) fun hfit => ?_, fun _ => startCheck_cause hx⟩
    simp [hcheck.2 hfit] at hx
  · exact ⟨iff_of_true rfl (hcheck.1 hgo), by simp⟩

/-- A frame fits plane 0 exactly when the capacity is not negative and holds its payload (R8, R162). -/
theorem frameSlots_le_iff (f len : Nat) : frameSlots len ≤ f ↔ 64 ≤ f ∧ len ≤ f / 8 - 8 := by
  unfold frameSlots; omega

/-- Settles O28: a payload fits the frame exactly when it fits the reported capacity. -/
theorem capP0IsTheEncodeBoundary : Obligations.CapP0IsTheEncodeBoundary := by
  intro s t u len hs ht hu
  obtain rfl := Host.Outcome.next.inj ((exec_capP0 hs).symm.trans ht)
  have hstart := exec_encP0 (s := { capacity .p0 (maxP0 s) s with plen := len }) (hs.capacity .p0 _)
  obtain rfl := Host.Outcome.next.inj (hstart.symm.trans hu)
  have hneg : (capacity .p0 (maxP0 s) s).status.capneg = false ↔ 64 ≤ flatLength s := by
    simp [maxP0_neg_iff]
  rw [toNat_capacityP0_capbytes, hneg, ← frameSlots_le_iff]
  exact start_encP0_outcome { capacity .p0 (maxP0 s) s with plen := len }

end Sys2Proof.Machine
end

section
/-! PROOFS. Whole runs of the Plane-0 codec (spec/42_plane0_codec.md R163 to R170): the state before each slot in
closed form, the run to the end of the command, and the round trip. -/

namespace Sys2Proof.Machine

theorem endSlot_p0 {s : State} (hv : s.status.varl = .p0) : endSlot s = (nextSlot s, false) := by
  simp only [endSlot, hv]

theorem slotAddress_p0 {s : State} (hv : s.status.varl = .p0) : slotAddress s = s.slot.toNat := by
  simp only [slotAddress, flatAddress, hv]

/-- SLOT counts every slot of a Plane-0 frame: a frame that fits the space has fewer than `2^43` slots (R36). -/
theorem toNat_slot_ofNat {n : Nat} (hn : n ≤ addressSpace) : (BitVec.ofNat 43 n).toNat = n := by
  rw [addressSpace_eq] at hn
  rw [BitVec.toNat_ofNat, Nat.mod_eq_of_lt (by omega)]

theorem slot_ofNat_succ (n : Nat) : BitVec.ofNat 43 n + 1 = BitVec.ofNat 43 (n + 1) :=
  (BitVec.ofNat_add n 1).symm

/-! ### ENC.P0 -/

/-- A step of a Plane-0 encode, in the phase of slot `n`, that has chosen the bit `b` (R133, R212). -/
theorem step_encodeP0 {s : State} {n : Nat} {b : Bool} {g : Byte} (hq : Undisturbed s)
    (hb : s.status.busy = true) (ho : s.status.opl = .enc) (hv : s.status.varl = .p0)
    (hslot : s.slot.toNat = n) (hp : s.status.phase = framePhase n)
    (hpix : n < s.cfg.pixSize ∧ n < addressSpace) (hc : chooseBit s = .ok (b, { s with shreg := g })) :
    step s = .next (afterSlot n { s with
      shreg := g, pix := s.pix.write n (withBit0 (s.pix.read n) b), slot := s.slot + 1 }) := by
  have haddr : slotAddress s = n := (slotAddress_p0 hv).trans hslot
  have hback : SlotBacked { s with shreg := g } := by
    change slotAddress s < s.cfg.pixSize ∧ slotAddress s < addressSpace
    rwa [haddr]
  have hend : endSlot (written b { s with shreg := g }) = ({ s with
      shreg := g, pix := s.pix.write n (withBit0 (s.pix.read n) b), slot := s.slot + 1 }, false) := by
    subst haddr
    refine (endSlot_p0 (s := written b { s with shreg := g }) hv).trans ?_
    simp only [written, slotByte, hv]
    rfl
  rw [(step_of_framePhase hq hb hslot hp).1 ho, encodeStep_chosen hc hback, hend, hslot]
  rfl

/-- PIX after the first `n` slots of a Plane-0 encode that sends `bit` (R133). -/
def bitZeroWritten (bit : Nat → Bool) (pix : Memory) : Nat → Memory
  | 0 => pix
  | n + 1 => (bitZeroWritten bit pix n).write n (withBit0 ((bitZeroWritten bit pix n).read n) (bit n))

theorem wf_bitZeroWritten (bit : Nat → Bool) {pix : Memory} (hm : Memory.wf pix) {n : Nat}
    (hn : n ≤ addressSpace) : Memory.wf (bitZeroWritten bit pix n) := by
  induction n with
  | zero => exact hm
  | succ n ih => exact Memory.wf_write (ih (by omega)) (by omega)

theorem read_bitZeroWritten (bit : Nat → Bool) {pix : Memory} (hm : Memory.wf pix) {n : Nat}
    (hn : n ≤ addressSpace) (a : Nat) : (bitZeroWritten bit pix n).read a =
      if a < n then withBit0 (pix.read a) (bit a) else pix.read a := by
  induction n generalizing a with
  | zero => rfl
  | succ n ih =>
    rw [bitZeroWritten, Memory.read_write (wf_bitZeroWritten bit hm (by omega))]
    rcases Nat.lt_trichotomy a n with h | rfl | h
    · rw [if_neg h.ne', ih (by omega), if_pos h, if_pos (by omega)]
    · rw [if_pos rfl, ih (by omega), if_neg (by omega), if_pos (by omega)]
    · rw [if_neg h.ne, ih (by omega), if_neg (by omega), if_neg (by omega)]

/-- The bits an ENC.P0 from `s` sends: the frame of its payload (R110). -/
def frameBit (s : State) : Nat → Bool := streamBit s.plen.toNat s.pay.read

/-- ENC.P0 from the idle state `s` after `n` slots, but for PHASE, which is `HDR` (R163). -/
def sentP0 (s : State) (n : Nat) : State :=
  { startGo .enc (startReset .enc .p0 s) with
    pix := bitZeroWritten (frameBit s) s.pix n
    shreg := sendRegister s.pay.read n
    slot := BitVec.ofNat 43 n }

/-- What a whole ENC.P0 from the idle state `s` leaves (R163). -/
def encodedP0 (s : State) : State := complete (sentP0 s (frameSlots s.plen.toNat))

/-- A block at rest with a Plane-0 frame that fits, on backed memory. -/
structure ReadyToEncodeP0 (s : State) : Prop where
  undisturbed : Undisturbed s
  pix_canonical : Memory.wf s.pix
  frame_fits : frameSlots s.plen.toNat ≤ flatLength s
  pix_backed : PixBacked s (frameSlots s.plen.toNat)
  pay_backed : PayBacked s s.plen.toNat

/-- A slot of a ready frame lies in the space. -/
theorem ReadyToEncodeP0.slots_le {s : State} (h : ReadyToEncodeP0 s) :
    frameSlots s.plen.toNat ≤ addressSpace := h.frame_fits.trans (flatLength_lt s).le

/-- One slot of ENC.P0 (R212): the next slot's state, or completion after the last. -/
theorem ReadyToEncodeP0.step_sentP0 {s : State} (h : ReadyToEncodeP0 s) {n : Nat}
    (hn : n < frameSlots s.plen.toNat) :
    step (inPhase (framePhase n) (sentP0 s n)) = .next (if n + 1 = frameSlots s.plen.toNat
      then complete (sentP0 s (n + 1)) else inPhase (framePhase (n + 1)) (sentP0 s (n + 1))) := by
  have hspace : n < addressSpace := hn.trans_le h.slots_le
  have hslot : (inPhase (framePhase n) (sentP0 s n)).slot.toNat = n := toNat_slot_ofNat hspace.le
  have hpix : n < (sentP0 s n).cfg.pixSize := hn.trans_le h.pix_backed
  have hpay (h64 : 64 ≤ n) : bodyByte n < s.cfg.paySize ∧ bodyByte n < addressSpace :=
    ⟨(bodyByte_lt_of_frame h64 hn).trans_le h.pay_backed, (bodyByte_le n).trans_lt hspace⟩
  have hchoose := chooseBit_streamBit hslot rfl rfl hpay
  have hnext : inPhase (framePhase n) (sentP0 s (n + 1)) = { inPhase (framePhase n) (sentP0 s n) with
      shreg := sendRegister s.pay.read (n + 1)
      pix := (bitZeroWritten (frameBit s) s.pix n).write n
        (withBit0 ((bitZeroWritten (frameBit s) s.pix n).read n) (frameBit s n))
      slot := (inPhase (framePhase n) (sentP0 s n)).slot + 1 } := by
    simp only [inPhase, sentP0, bitZeroWritten, slot_ofNat_succ]
  have hstep := step_encodeP0 (s := inPhase (framePhase n) (sentP0 s n)) h.undisturbed rfl rfl rfl hslot
    rfl ⟨hpix, hspace⟩ hchoose
  refine hstep.trans (congrArg Host.Outcome.next ?_)
  exact (congrArg (afterSlot n) hnext.symm).trans (afterSlot_encode rfl hn)

/-- ENC.P0 run to its end (R163): from a ready block its `64 + 8*L` slots lead to completion. -/
theorem ReadyToEncodeP0.runsTo {s : State} (h : ReadyToEncodeP0 s) :
    RunsTo (frameSlots s.plen.toNat) (startGo .enc (startReset .enc .p0 s)) (encodedP0 s) := by
  refine runsTo_of_steps (f := fun n => inPhase (framePhase n) (sentP0 s n))
    (Nat.add_pos_left (by decide) _) fun n hn => (h.step_sentP0 hn).trans ?_
  split
  · next hend => rw [hend, encodedP0]
  · rfl

/-- A START that passes its checks goes (R207). -/
theorem start_passes {op : Operation} {var : Variant} {s : State}
    (h : startCheck op var (startReset op var s) = none) :
    start op var s = startGo op (startReset op var s) := by
  rcases start_cases op var s with ⟨x, info, hx, -⟩ | ⟨-, he⟩
  · simp [h] at hx
  · exact he

theorem exec_encP0_starts {s : State} (hs : Accepting s) (hfit : frameSlots s.plen.toNat ≤ flatLength s) :
    exec .encP0 s = .next (startGo .enc (startReset .enc .p0 s)) := by
  rw [exec_encP0 hs, start_passes ((startCheck_encP0_none _).2 hfit)]

/-- PIX after a whole ENC.P0 is that of the reference function (R169). -/
theorem ReadyToEncodeP0.read_pix {s : State} (h : ReadyToEncodeP0 s) (a : Nat) :
    (encodedP0 s).pix.read a = referenceEncodeP0 s.pix.read s.plen.toNat s.pay.read a :=
  read_bitZeroWritten (frameBit s) h.pix_canonical h.slots_le a

/-- Settles O52: the closed form of the state after the last slot. -/
theorem encodeP0RunMeetsReference : Obligations.EncodeP0RunMeetsReference := by
  intro s hinv hs hq hfit hpix hpay
  have h : ReadyToEncodeP0 s := ⟨hq, hinv.pix_canonical, hfit, hpix, hpay⟩
  exact ⟨_, _, exec_encP0_starts hs hfit, h.runsTo, ⟨rfl, rfl, rfl, hs.2⟩, rfl, h.read_pix, rfl,
    toNat_slot_ofNat h.slots_le, rfl, rfl, sendRegister_frame_end _, rfl, rfl, rfl, rfl⟩

/-! ### DEC.P0 -/

/-- A step of a Plane-0 decode, in the phase of slot `n`, that has delivered bit 0 of channel byte `n` (R134,
R212). -/
theorem step_decodeP0 {s t : State} {n : Nat} (hq : Undisturbed s) (hb : s.status.busy = true)
    (ho : s.status.opl = .dec) (hv : s.status.varl = .p0) (hslot : s.slot.toNat = n)
    (hp : s.status.phase = framePhase n) (hpix : n < s.cfg.pixSize ∧ n < addressSpace)
    (hd : deliverBit n ((s.pix.read n).getLsbD 0) (nextSlot s) = .ok t) :
    step s = .next (afterSlot n t) := by
  have haddr : slotAddress s = n := (slotAddress_p0 hv).trans hslot
  have hback : SlotBacked s := by rwa [SlotBacked, haddr]
  have hbit : slotBit s = (s.pix.read n).getLsbD 0 := by simp only [slotBit, hv, haddr]
  have hdeliver : deliverBit s.slot.toNat (slotBit s) (endSlot s).1 = .ok t := by
    rw [endSlot_p0 hv, hbit, hslot, hd]
  rw [(step_of_framePhase hq hb hslot hp).2 ho,
    decodeStep_delivered hback (by rw [endSlot_p0 hv]) hdeliver, hslot]

/-- The bits a DEC.P0 from `s` reads (R134). -/
def bitZero (s : State) (a : Nat) : Bool := (s.pix.read a).getLsbD 0

/-- DEC.P0 from the idle state `s` after `n` slots, but for PHASE, which is `HDR` (R165). -/
def receivedP0 (s : State) (n : Nat) : State :=
  received (bitZero s) s.pay n { startGo .dec (startReset .dec .p0 s) with slot := BitVec.ofNat 43 n }

/-- A block at rest with a buffer that holds a header, on backed memory. -/
structure ReadyToDecodeP0 (s : State) : Prop where
  undisturbed : Undisturbed s
  pay_canonical : Memory.wf s.pay
  header_fits : 64 ≤ flatLength s
  pix_backed : PixBacked s (flatLength s)
  pay_backed : PayBacked s (flatLength s / 8 - 8)

/-- One slot of DEC.P0 up to the decision that follows it (R212), inside a frame that fits the buffer. -/
theorem ReadyToDecodeP0.step_receivedP0 {s : State} (h : ReadyToDecodeP0 s) {n len : Nat}
    (hfit : frameSlots len ≤ flatLength s) (hn : n < frameSlots len) :
    step (inPhase (framePhase n) (receivedP0 s n)) =
      .next (afterSlot n (inPhase (framePhase n) (receivedP0 s (n + 1)))) := by
  have hspace : n < addressSpace := (hn.trans_le hfit).trans (flatLength_lt s)
  have hslot : (inPhase (framePhase n) (receivedP0 s n)).slot.toNat = n := toNat_slot_ofNat hspace.le
  have hpix : n < s.cfg.pixSize := (hn.trans_le hfit).trans_le h.pix_backed
  have hlen : len ≤ flatLength s / 8 - 8 := ((frameSlots_le_iff _ _).1 hfit).2
  have hpay (h64 : 64 ≤ n) : bodyByte n < s.cfg.paySize ∧ bodyByte n < addressSpace :=
    ⟨((bodyByte_lt_of_frame h64 hn).trans_le hlen).trans_le h.pay_backed, (bodyByte_le n).trans_lt hspace⟩
  have hdeliver := deliverBit_received (bit := bitZero s) (pay := s.pay) (n := n)
    (s := inPhase (framePhase n)
      { startGo .dec (startReset .dec .p0 s) with slot := BitVec.ofNat 43 n + 1 }) rfl hpay
  have hnext : receivedP0 s (n + 1) = received (bitZero s) s.pay (n + 1)
      { startGo .dec (startReset .dec .p0 s) with slot := BitVec.ofNat 43 n + 1 } := by
    rw [receivedP0, slot_ofNat_succ]
  rw [hnext]
  exact step_decodeP0 h.undisturbed rfl rfl rfl hslot rfl ⟨hpix, hspace⟩ hdeliver

/-- The header of the buffer (R113). -/
def headerP0 (s : State) : Nat := bitsValue (bitZero s) 0 64

theorem toNat_receivedP0_lenreg (s : State) {n : Nat} (h : 64 ≤ n) :
    (receivedP0 s n).lenreg.toNat = headerP0 s := toNat_receivedLength (bitZero s) h

/-- DEC.P0 rejects a header of 0 and one whose frame does not fit the buffer (R166, R210). -/
theorem headerRejected_receivedP0 (s : State) :
    headerRejected (receivedP0 s 64) = true ↔ headerP0 s = 0 ∨ flatLength s < frameSlots (headerP0 s) := by
  have hlen := toNat_receivedP0_lenreg s (le_refl 64)
  have hv : (receivedP0 s 64).status.varl = .p0 := rfl
  have hmax : maxP0 (receivedP0 s 64) = maxP0 s := rfl
  have hzero : (receivedP0 s 64).lenreg = 0 ↔ headerP0 s = 0 := by rw [← hlen, BitVec.toNat_eq]; rfl
  simp only [headerRejected, hv, Bool.or_eq_true, decide_eq_true_eq, hzero, hmax, hlen]
  unfold maxP0 frameSlots
  omega

/-- DEC.P0 of a buffer without hidden data ends with its header (R166). -/
theorem ReadyToDecodeP0.runsTo_noData {s : State} (h : ReadyToDecodeP0 s)
    (hrej : headerP0 s = 0 ∨ flatLength s < frameSlots (headerP0 s)) :
    RunsTo 64 (startGo .dec (startReset .dec .p0 s)) (completeNoData (receivedP0 s 64)) := by
  refine runsTo_of_steps (f := fun n => inPhase (framePhase n) (receivedP0 s n)) (by decide) fun n hn => ?_
  have hstep := h.step_receivedP0 (len := 0) h.header_fits hn
  refine hstep.trans (congrArg Host.Outcome.next ?_)
  split
  · next hend =>
    obtain rfl : n = 63 := by omega
    rw [afterSlot_decode_header_end rfl, if_pos ((headerRejected_receivedP0 s).2 hrej)]
  · exact afterSlot_header_inside _ (by omega)

/-- DEC.P0 of a buffer whose frame fits ends with its payload (R165). -/
theorem ReadyToDecodeP0.runsTo_payload {s : State} (h : ReadyToDecodeP0 s) (hpos : 0 < headerP0 s)
    (hfit : frameSlots (headerP0 s) ≤ flatLength s) :
    RunsTo (frameSlots (headerP0 s)) (startGo .dec (startReset .dec .p0 s))
      (completeWithData (receivedP0 s (frameSlots (headerP0 s)))) := by
  have hacc : ¬headerRejected (receivedP0 s 64) = true := fun hrej => by
    have := (headerRejected_receivedP0 s).1 hrej
    omega
  refine runsTo_of_steps (f := fun n => inPhase (framePhase n) (receivedP0 s n))
    (Nat.add_pos_left (by decide) _) fun n hn => ?_
  refine (h.step_receivedP0 hfit hn).trans (congrArg Host.Outcome.next ?_)
  rcases Nat.lt_trichotomy n 63 with hlt | rfl | hge
  · rw [afterSlot_header_inside _ hlt, if_neg (by unfold frameSlots; omega)]
  · rw [afterSlot_decode_header_end rfl, if_neg hacc, if_neg (by unfold frameSlots; omega)]
  · rw [afterSlot_decode_body rfl hge, toNat_receivedP0_lenreg s (by omega)]
    split
    · next hend => rw [hend]
    · rfl

theorem exec_decP0_starts {s : State} (hs : Accepting s) (h : 64 ≤ flatLength s) :
    exec .decP0 s = .next (startGo .dec (startReset .dec .p0 s)) := by
  rw [← start_passes ((startCheck_decP0_none (startReset .dec .p0 s)).2 h)]
  exact commandPort_accepting hs

/-- What the reference decoder says, by the header (R169). -/
theorem referenceDecodeP0_eq (s : State) : referenceDecodeP0 (flatLength s) s.pix.read =
    if headerP0 s = 0 ∨ flatLength s < frameSlots (headerP0 s) then .noData
    else .payload (payloadOf (bitZero s) (headerP0 s)) := by
  have hover (len : Nat) :
      ((flatLength s / 8 : Nat) : Int) - 8 < (len : Int) ↔ flatLength s < frameSlots len := by
    unfold frameSlots; omega
  simp only [referenceDecodeP0, hover]
  rfl

theorem length_payloadOf (bit : Nat → Bool) (len : Nat) : (payloadOf bit len).length = len := by
  simp [payloadOf]

/-- The last byte of a payload is what stands in SHREG after its frame (R118). -/
theorem getLast?_payloadOf (bit : Nat → Bool) {len : Nat} (h : 0 < len) :
    (payloadOf bit len).getLast? = some (receivedRegister bit (frameSlots len)) := by
  obtain ⟨m, rfl⟩ : ∃ m, len = m + 1 := ⟨len - 1, by omega⟩
  rw [receivedRegister_byte_end, payloadOf, List.range_succ, List.map_append, List.map_singleton,
    List.getLast?_concat, receivedByte]

/-- PAY of a DEC.P0 with a payload holds it, and what it held beyond (R165). -/
theorem ReadyToDecodeP0.delivered {s : State} (h : ReadyToDecodeP0 s) (hpos : 0 < headerP0 s)
    (hfit : frameSlots (headerP0 s) ≤ flatLength s) :
    Delivered (payloadOf (bitZero s) (headerP0 s))
        (completeWithData (receivedP0 s (frameSlots (headerP0 s)))) ∧
      ∀ k, headerP0 s ≤ k →
        (receivedP0 s (frameSlots (headerP0 s))).pay.read k = s.pay.read k := by
  have hspace := hfit.trans (flatLength_lt s).le
  have hlen : headerP0 s ≤ addressSpace := by unfold frameSlots at hspace; omega
  have hpay : (receivedP0 s (frameSlots (headerP0 s))).pay =
      receivedPay (bitZero s) s.pay (headerP0 s) := by
    have hbytes : bodyByte (frameSlots (headerP0 s)) = headerP0 s := by unfold bodyByte frameSlots; omega
    simp only [receivedP0, received, hbytes]
  have hreg := toNat_receivedP0_lenreg s (Nat.le_add_right 64 (8 * headerP0 s))
  refine ⟨?_, fun k hk => ?_⟩
  · rw [Delivered, length_payloadOf]
    refine ⟨?_, hreg, hreg, toNat_slot_ofNat hspace, getLast?_payloadOf (bitZero s) hpos⟩
    rw [payloadBytes, completeWithData_pay, hpay]
    exact readBytes_receivedPay (bitZero s) h.pay_canonical hlen
  · rw [hpay, read_receivedPay (bitZero s) h.pay_canonical hlen, if_neg (by omega)]

/-- Settles O53, by the header: the closed form of the state after slot 63, or after the last of the frame. -/
theorem decodeP0RunMeetsReference : Obligations.DecodeP0RunMeetsReference := by
  intro s hinv hs hq h64 hpix hpay
  have h : ReadyToDecodeP0 s := ⟨hq, hinv.pay_canonical, h64, hpix, hpay⟩
  refine ⟨_, exec_decP0_starts hs h64, ?_⟩
  rw [referenceDecodeP0_eq]
  by_cases hrej : headerP0 s = 0 ∨ flatLength s < frameSlots (headerP0 s)
  · rw [if_pos hrej]
    exact ⟨_, h.runsTo_noData hrej, ⟨rfl, rfl, rfl, hs.2⟩, rfl, rfl, rfl, rfl, rfl, rfl,
      ⟨rfl, rfl, rfl, rfl⟩, toNat_receivedP0_lenreg s le_rfl⟩
  · rw [if_neg hrej]
    have hpos : 0 < headerP0 s := by omega
    have hfit : frameSlots (headerP0 s) ≤ flatLength s := by omega
    obtain ⟨hdel, hframe⟩ := h.delivered hpos hfit
    simp only [length_payloadOf]
    exact ⟨_, h.runsTo_payload hpos hfit, ⟨rfl, rfl, rfl, hs.2⟩, rfl, hdel, rfl, ⟨rfl, rfl, rfl, rfl⟩,
      hframe⟩

/-! ### The round trip -/

/-- Bit 0 of every channel byte of an encoded frame is the frame's (R169). -/
theorem getLsbD_referenceEncodeP0 (pix p : Nat → Byte) {len a : Nat} (ha : a < frameSlots len) :
    (referenceEncodeP0 pix len p a).getLsbD 0 = streamBit len p a := by
  rw [referenceEncodeP0, if_pos ha, getLsbD_withBit0, if_pos rfl]

/-- The header of a frame is the length of its payload (R119). -/
theorem bitsValue_frame_header {bit : Nat → Bool} {len : Nat} {p : Nat → Byte} (hlen : len < 2 ^ 64)
    (hbit : ∀ i, i < frameSlots len → bit i = streamBit len p i) : bitsValue bit 0 64 = len :=
  (toNat_deser64 bit).symm.trans (frameIsInvertible len p bit hlen hbit).1

/-- The body of a frame spells its payload (R119). -/
theorem payloadOf_frame {bit : Nat → Bool} {len : Nat} {p : Nat → Byte} (hlen : len < 2 ^ 64)
    (hbit : ∀ i, i < frameSlots len → bit i = streamBit len p i) :
    payloadOf bit len = (List.range len).map p := by
  refine List.map_congr_left fun k hk => ?_
  have hpack := (frameIsInvertible len p bit hlen hbit).2 k (List.mem_range.1 hk)
  rw [← hpack, ← toNat_pack8, BitVec.ofNat_toNat, BitVec.setWidth_eq]

/-- DEC.P0 of a buffer whose first slots spell a frame recovers its payload (R170). -/
theorem ReadyToDecodeP0.recovers {s : State} (h : ReadyToDecodeP0 s) {len : XWord} {p : Nat → Byte}
    (hfit : frameSlots len.toNat ≤ flatLength s)
    (hbit : ∀ i, i < frameSlots len.toNat → bitZero s i = streamBit len.toNat p i) :
    ∃ t, RunsTo (frameSlots len.toNat) (startGo .dec (startReset .dec .p0 s)) t ∧
      t.status = { (startGo .dec (startReset .dec .p0 s)).status with
        busy := false, phase := .idle, done := true, nodata := decide (len = 0) } ∧
      t.rlen = len ∧ payloadBytes t len.toNat = (List.range len.toNat).map p := by
  have hheader : headerP0 s = len.toNat := bitsValue_frame_header len.isLt hbit
  by_cases h0 : len = 0
  · subst h0
    exact ⟨_, h.runsTo_noData (.inl hheader), rfl, rfl, rfl⟩
  · have hpos : 0 < headerP0 s := by
      rw [hheader, Nat.pos_iff_ne_zero]
      exact fun hz => h0 (BitVec.eq_of_toNat_eq hz)
    have hfits : frameSlots (headerP0 s) ≤ flatLength s := hheader ▸ hfit
    obtain ⟨⟨hbytes, hrlen, -⟩, -⟩ := h.delivered hpos hfits
    have hrun := h.runsTo_payload hpos hfits
    rw [length_payloadOf] at hbytes hrlen
    rw [hheader] at hrun hbytes hrlen
    refine ⟨_, hrun, ?_, BitVec.eq_of_toNat_eq hrlen, hbytes.trans (payloadOf_frame len.isLt hbit)⟩
    rw [decide_eq_false h0]
    rfl

/-- Settles O54: what ENC.P0 leaves spells its frame, and DEC.P0 recovers the payload of a frame. -/
theorem roundTripP0 : Obligations.RoundTripP0 := by
  intro s pay hinv hs hq hfit hpix hpay hwf
  have hready : ReadyToEncodeP0 s :=
    ⟨hq, hinv.pix_canonical, hfit, hfit.trans hpix, by unfold frameSlots at hfit; omega⟩
  have h64 : 64 ≤ flatLength s := (Nat.le_add_right _ _).trans hfit
  have hbit (a : Nat) (ha : a < frameSlots s.plen.toNat) :
      ((encodedP0 s).pix.read a).getLsbD 0 = streamBit s.plen.toNat s.pay.read a := by
    rw [← getLsbD_referenceEncodeP0 s.pix.read s.pay.read ha, ← hready.read_pix]
  have hdecode : ReadyToDecodeP0 { encodedP0 s with pay := pay } :=
    ⟨hq, hwf, h64, hpix, (Nat.sub_le _ _).trans ((Nat.div_le_self _ _).trans hpay)⟩
  obtain ⟨w, hrun, hstatus, hrlen, hbytes⟩ := hdecode.recovers (len := s.plen) hfit hbit
  refine ⟨_, encodedP0 s, _, w, exec_encP0_starts hs hfit, hready.runsTo, ⟨rfl, rfl, rfl, hs.2⟩,
    exec_decP0_starts ⟨rfl, hs.2⟩ h64, hrun, ?_, by simp [hstatus], hrlen, ?_, fun hz a ha => ?_⟩
  · rw [Completed, hstatus]
    exact ⟨rfl, rfl, rfl, hs.2⟩
  · rw [hbytes]
    exact List.map_congr_left fun k _ => by rw [Nat.zero_add]
  · rw [hbit a (Nat.lt_add_right _ ha), hz, streamBit_header _ _ ha]
    simp

end Sys2Proof.Machine
end

section
/-! PROOFS. Whole runs of the Multi-Plane codec (spec/43_multiplane_codec.md R183 to R191): the cursor and the
state before each slot in closed form, the three ways a command ends, the round trip, and what both variants
agree on. -/

namespace Sys2Proof.Machine

/-! ### The cursor in closed form -/

/-- `plane_index` before slot `n` of a sweep of `f` channel bytes per plane; it stays 7 after the last slot
(R139, R147). -/
def planeAt (f n : Nat) : BitVec 3 := BitVec.ofNat 3 (min (n / f) 7)

/-- `s` with SLOT at `n` and the cursor at the closed form of R147, or, after the whole sweep, at the origin of
plane 7 (R139). -/
def atSlot (n : Nat) (s : State) : State :=
  { s with
    slot := BitVec.ofNat 43 n
    curRow := BitVec.ofNat 16 (n % flatLength s / s.channels.toNat / s.width.toNat)
    curCol := BitVec.ofNat 16 (n % flatLength s / s.channels.toNat % s.width.toNat)
    curCh := BitVec.ofNat 8 (n % flatLength s % s.channels.toNat)
    planeIndex := planeAt (flatLength s) n }

theorem toNat_planeAt {f n : Nat} (hn : n < 8 * f) : (planeAt f n).toNat = n / f := by
  have hplane : n / f < 8 := Nat.div_lt_of_lt_mul (by omega)
  rw [planeAt, BitVec.toNat_ofNat, Nat.min_eq_left (by omega), Nat.mod_eq_of_lt hplane]

/-- SLOT counts every slot of a sweep: there are fewer than `2^43` (R36). -/
theorem toNat_atSlot_slot {n : Nat} {s : State} (hn : n ≤ 8 * flatLength s) :
    (atSlot n s).slot.toNat = n := by
  have hspace := flatLength_lt s
  rw [addressSpace_eq] at hspace
  exact (BitVec.toNat_ofNat _ _).trans (Nat.mod_eq_of_lt (by omega))

/-- A flat offset splits into a row, a column and a channel in range (R63). -/
theorem offset_in_range {h w c m : Nat} (hm : m < h * w * c) :
    m / c / w < h ∧ m / c % w < w ∧ m % c < c := by
  have hpos : 0 < h * w * c := by omega
  have hc : 0 < c := Nat.pos_of_mul_pos_left hpos
  have hw : 0 < w := Nat.pos_of_mul_pos_left (Nat.pos_of_mul_pos_right hpos)
  refine ⟨Nat.div_lt_of_lt_mul (Nat.div_lt_of_lt_mul ?_), Nat.mod_lt _ hw, Nat.mod_lt _ hc⟩
  rwa [Nat.mul_comm w h, Nat.mul_comm c]

/-- The split of a flat offset is the only one in range. -/
theorem offset_split {w c row col ch : Nat} (hcol : col < w) (hch : ch < c) :
    ((row * w + col) * c + ch) / c / w = row ∧ ((row * w + col) * c + ch) / c % w = col ∧
      ((row * w + col) * c + ch) % c = ch := by
  have hdiv : ((row * w + col) * c + ch) / c = row * w + col :=
    Nat.div_eq_of_lt_le (by omega) (by rw [Nat.succ_mul]; omega)
  rw [hdiv, Nat.mul_add_mod_of_lt hch]
  exact ⟨Nat.div_eq_of_lt_le (by omega) (by rw [Nat.succ_mul]; omega), Nat.mul_add_mod_of_lt hcol, rfl⟩

/-- The cursor registers hold the split of the slot's offset: each part fits its register. -/
theorem toNat_atSlot_cursor {s : State} (hs : 0 < flatLength s) (n : Nat) :
    (atSlot n s).curRow.toNat = n % flatLength s / s.channels.toNat / s.width.toNat ∧
      (atSlot n s).curCol.toNat = n % flatLength s / s.channels.toNat % s.width.toNat ∧
      (atSlot n s).curCh.toNat = n % flatLength s % s.channels.toNat := by
  obtain ⟨hrow, hcol, hch⟩ := offset_in_range (Nat.mod_lt n hs)
  exact ⟨(BitVec.toNat_ofNat _ _).trans (Nat.mod_eq_of_lt (hrow.trans s.height.isLt)),
    (BitVec.toNat_ofNat _ _).trans (Nat.mod_eq_of_lt (hcol.trans s.width.isLt)),
    (BitVec.toNat_ofNat _ _).trans (Nat.mod_eq_of_lt (hch.trans s.channels.isLt))⟩

/-- The cursor stands in range (R34). -/
theorem atSlot_in_range {s : State} (hs : 0 < flatLength s) (n : Nat) :
    (atSlot n s).curRow.toNat < s.height.toNat ∧ (atSlot n s).curCol.toNat < s.width.toNat ∧
      (atSlot n s).curCh.toNat < s.channels.toNat := by
  obtain ⟨hrow, hcol, hch⟩ := toNat_atSlot_cursor hs n
  rw [hrow, hcol, hch]
  exact offset_in_range (Nat.mod_lt n hs)

/-- The cursor addresses the slot's offset in its plane (R147). -/
theorem cursorAddress_atSlot {s : State} (hs : 0 < flatLength s) (n : Nat) :
    cursorAddress (atSlot n s) = n % flatLength s := by
  obtain ⟨hrow, hcol, hch⟩ := toNat_atSlot_cursor hs n
  rw [cursorAddress, hrow, hcol, hch, pixelOffset]
  change (_ * s.width.toNat + _) * s.channels.toNat + _ = _
  rw [Nat.mul_comm _ s.width.toNat, Nat.div_add_mod, Nat.mul_comm, Nat.div_add_mod]

theorem cursorAtSlot_atSlot {s : State} {n : Nat} (hn : n < 8 * flatLength s) :
    CursorAtSlot (atSlot n s) := by
  rw [CursorAtSlot, toNat_atSlot_slot hn.le]
  exact ⟨cursorAddress_atSlot (by omega) n, toNat_planeAt hn⟩

/-- A cursor in range that addresses the offset of slot `n`, in the plane of slot `n`, is the closed form. -/
theorem eq_atSlot {s : State} {n : Nat} {slot : BitVec 43} {row col : BitVec 16} {ch : BitVec 8} {p : BitVec 3}
    (hslot : slot = BitVec.ofNat 43 n) (hcol : col.toNat < s.width.toNat) (hch : ch.toNat < s.channels.toNat)
    (haddr : pixelOffset s row.toNat col.toNat ch.toNat = n % flatLength s)
    (hplane : p = planeAt (flatLength s) n) :
    { s with slot := slot, curRow := row, curCol := col, curCh := ch, planeIndex := p } = atSlot n s := by
  obtain ⟨h1, h2, h3⟩ := offset_split (row := row.toNat) hcol hch
  rw [← pixelOffset, haddr] at h1 h2 h3
  simp only [atSlot, hslot, hplane, h1, h2, h3, BitVec.ofNat_toNat, BitVec.setWidth_eq]

/-- The origin of the plane is the closed form of its first slot. -/
theorem origin_eq_atSlot {s : State} {n : Nat} {slot : BitVec 43} {p : BitVec 3} (hs : 0 < flatLength s)
    (hslot : slot = BitVec.ofNat 43 n) (hoffset : n % flatLength s = 0)
    (hplane : p = planeAt (flatLength s) n) :
    { s with slot := slot, curRow := 0, curCol := 0, curCh := 0, planeIndex := p } = atSlot n s := by
  obtain ⟨-, hwidth, hchannels⟩ := dimensions_pos hs
  exact eq_atSlot hslot hwidth hchannels (by simp [pixelOffset, hoffset]) hplane

/-- Inside a plane the next slot has the next offset. -/
theorem next_slot_inside {f n : Nat} (h : n % f + 1 < f) :
    (n + 1) % f = n % f + 1 ∧ planeAt f (n + 1) = planeAt f n ∧ n + 1 ≠ 8 * f := by
  have hdiv := Nat.mod_add_div n f
  obtain ⟨hd, hm⟩ := (Nat.div_mod_unique (a := n + 1) (d := n / f) (by omega)).2 ⟨by omega, h⟩
  exact ⟨hm, by rw [planeAt, planeAt, hd], fun h8 => by simp [h8] at hm⟩

/-- After the last offset of a plane comes the origin of the next one, and after plane 7 the end of the sweep. -/
theorem next_slot_wraps {f n : Nat} (h : n % f + 1 = f) :
    (n + 1) % f = 0 ∧ (n / f < 7 → planeAt f (n + 1) = planeAt f n + 1 ∧ n + 1 ≠ 8 * f) ∧
      (n / f = 7 → planeAt f (n + 1) = planeAt f n ∧ n + 1 = 8 * f) := by
  have hdiv := Nat.mod_add_div n f
  obtain ⟨hd, hm⟩ := (Nat.div_mod_unique (a := n + 1) (b := f) (c := 0) (d := n / f + 1) (by omega)).2
    ⟨by rw [Nat.mul_succ]; omega, by omega⟩
  refine ⟨hm, fun h7 => ⟨?_, fun h8 => ?_⟩, fun h7 => ⟨?_, ?_⟩⟩
  · rw [planeAt, planeAt, hd, Nat.min_eq_left (by omega), Nat.min_eq_left h7.le, BitVec.ofNat_add]
    rfl
  · rw [h8, Nat.mul_div_cancel _ (by omega)] at hd
    omega
  · rw [planeAt, planeAt, hd, h7]
    rfl
  · rw [h7] at hdiv
    omega

/-- The end of slot `n` of a sweep: the cursor of the next slot, and `CapacityExhausted` after the last one
(R138, R139, R147). -/
theorem advanceCursor_atSlot {s : State} {n : Nat} (hn : n < 8 * flatLength s) :
    advanceCursor (nextSlot (atSlot n s)) = (atSlot (n + 1) s, decide (n + 1 = 8 * flatLength s)) := by
  have hs : 0 < flatLength s := by omega
  have hplane : (nextSlot (atSlot n s)).planeIndex.toNat = n / flatLength s := toNat_planeAt hn
  have haddr : cursorAddress (nextSlot (atSlot n s)) = n % flatLength s := cursorAddress_atSlot hs n
  have hflat : flatLength (nextSlot (atSlot n s)) = flatLength s := rfl
  have hslot : (nextSlot (atSlot n s)).slot = BitVec.ofNat 43 (n + 1) := slot_ofNat_succ n
  obtain ⟨hrow, hcol, hch⟩ := atSlot_in_range hs n
  rcases advanceCursor_cases (s := nextSlot (atSlot n s)) hrow hcol hch with
    ⟨r, c, h, he, -, hc, hh, hoff, hlt⟩ | ⟨hp, hend, he⟩ | ⟨hp, hend, he⟩
  · rw [haddr, hflat] at hlt
    obtain ⟨hm, hnext, hlast⟩ := next_slot_inside hlt
    refine he.trans (Prod.ext (eq_atSlot hslot hc hh ?_ hnext.symm) (decide_eq_false hlast).symm)
    exact hoff.trans (by rw [haddr, ← hm]; rfl)
  · rw [haddr, hflat] at hend
    obtain ⟨hm, hinside, -⟩ := next_slot_wraps hend
    obtain ⟨hnext, hlast⟩ := hinside (hplane ▸ hp)
    exact he.trans (Prod.ext (origin_eq_atSlot hs hslot hm hnext.symm) (decide_eq_false hlast).symm)
  · rw [haddr, hflat] at hend
    obtain ⟨hm, -, hsweep⟩ := next_slot_wraps hend
    obtain ⟨hnext, hlast⟩ := hsweep (hplane.symm.trans (congrArg BitVec.toNat hp))
    exact he.trans (Prod.ext (origin_eq_atSlot hs hslot hm hnext.symm) (decide_eq_true hlast).symm)

/-- START leaves the cursor of slot 0 (R207). -/
theorem atSlot_zero (op : Operation) (s : State) :
    atSlot 0 (startGo op (startReset op .mp s)) = startGo op (startReset op .mp s) := by
  have hplane : planeAt (flatLength (startGo op (startReset op .mp s))) 0 = 0 := by simp [planeAt]
  simp only [atSlot, hplane, Nat.zero_mod, Nat.zero_div]
  rfl

/-! ### The slots of a Multi-Plane command -/

/-- The channel byte of slot `n` (R131, R147). -/
theorem slotAddress_atSlot {s : State} {n : Nat} (hv : s.status.varl = .mp) (hs : 0 < flatLength s) :
    slotAddress (atSlot n s) = n % flatLength s := by
  have hmode : slotAddress (atSlot n s) = cursorAddress (atSlot n s) := by
    simp only [slotAddress, atSlot, hv]
  rw [hmode, cursorAddress_atSlot hs n]

theorem endSlot_atSlot {s : State} {n : Nat} (hv : s.status.varl = .mp) (hn : n < 8 * flatLength s) :
    endSlot (atSlot n s) = (atSlot (n + 1) s, decide (n + 1 = 8 * flatLength s)) := by
  have hmode : endSlot (atSlot n s) = advanceCursor (nextSlot (atSlot n s)) := by
    simp only [endSlot, atSlot, hv]
  rw [hmode, advanceCursor_atSlot hn]

/-- On backed memory every slot of the sweep can be accessed (R72, R73). -/
theorem slotBacked_atSlot {s : State} (hv : s.status.varl = .mp) (hs : 0 < flatLength s)
    (hpix : PixBacked s (flatLength s)) (n : Nat) : SlotBacked (atSlot n s) := by
  have hlt : n % flatLength s < flatLength s := Nat.mod_lt n hs
  rw [SlotBacked, slotAddress_atSlot hv hs]
  exact ⟨hlt.trans_le hpix, hlt.trans (flatLength_lt s)⟩

/-- The bit a decode reads in slot `n` is that of the buffer (R136, R189). -/
theorem slotBit_atSlot {s : State} {n : Nat} (hv : s.status.varl = .mp) (hn : n < 8 * flatLength s) :
    slotBit (atSlot n s) = mpSlotBit (flatLength s) s.pix.read n := by
  have hmode : slotBit (atSlot n s) =
      (s.pix.read (slotAddress (atSlot n s))).getLsbD (planeAt (flatLength s) n).toNat := by
    simp only [slotBit, atSlot, hv]
  rw [hmode, slotAddress_atSlot hv (by omega), toNat_planeAt hn, mpSlotBit]

/-- PIX after an encode has put the bit `b` into slot `n` (R135). -/
def slotWritten (f n : Nat) (b : Bool) (m : Memory) : Memory :=
  m.write (n % f) (withPlaneBit (planeAt f n) (m.read (n % f)) b)

theorem written_atSlot {s : State} {n : Nat} (b : Bool) (hv : s.status.varl = .mp) (hs : 0 < flatLength s) :
    written b (atSlot n s) = atSlot n { s with pix := slotWritten (flatLength s) n b s.pix } := by
  have hbyte : slotByte b (atSlot n s) =
      withPlaneBit (planeAt (flatLength s) n) (s.pix.read (slotAddress (atSlot n s))) b := by
    simp only [slotByte, atSlot, hv]
  rw [written, hbyte, slotAddress_atSlot hv hs]
  rfl

/-- A step of a Multi-Plane encode in slot `n` that has chosen the bit `b`: the bit is written, and then the end
of the sweep raises (R135, R140, R212). -/
theorem step_encodeMp {s : State} {n : Nat} {b : Bool} {g : Byte} (hq : Undisturbed s)
    (hb : s.status.busy = true) (ho : s.status.opl = .enc) (hv : s.status.varl = .mp)
    (hp : s.status.phase = framePhase n) (hn : n < 8 * flatLength s) (hpix : PixBacked s (flatLength s))
    (hc : chooseBit (atSlot n s) = .ok (b, atSlot n { s with shreg := g })) :
    let t : State := atSlot (n + 1) { s with shreg := g, pix := slotWritten (flatLength s) n b s.pix }
    step (atSlot n s) = .next (if n + 1 = 8 * flatLength s then raiseExhausted t else afterSlot n t) := by
  intro t
  have hslot := toNat_atSlot_slot hn.le
  have hs : 0 < flatLength s := by omega
  have hend : endSlot (written b (atSlot n { s with shreg := g })) =
      (t, decide (n + 1 = 8 * flatLength s)) :=
    (congrArg endSlot (written_atSlot (s := { s with shreg := g }) b hv hs)).trans
      (endSlot_atSlot (s := { s with shreg := g, pix := slotWritten (flatLength s) n b s.pix }) hv hn)
  rw [(step_of_framePhase (s := atSlot n s) hq hb hslot hp).1 ho,
    encodeStep_chosen hc (slotBacked_atSlot hv hs hpix n), hend, hslot]
  simp only [decide_eq_true_eq]

/-- A step of a Multi-Plane decode in slot `n`: the bit read is delivered, unless the end of the sweep raises
first (R136, R140, R212). -/
theorem step_decodeMp {s t : State} {n : Nat} (hq : Undisturbed s)
    (hb : s.status.busy = true) (ho : s.status.opl = .dec) (hv : s.status.varl = .mp)
    (hp : s.status.phase = framePhase n) (hn : n < 8 * flatLength s) (hpix : PixBacked s (flatLength s))
    (hd : n + 1 ≠ 8 * flatLength s →
      deliverBit n (mpSlotBit (flatLength s) s.pix.read n) (atSlot (n + 1) s) = .ok t) :
    step (atSlot n s) = .next (if n + 1 = 8 * flatLength s then raiseExhausted (atSlot (n + 1) s)
      else afterSlot n t) := by
  have hslot := toNat_atSlot_slot hn.le
  have hend := endSlot_atSlot hv hn
  have hback := slotBacked_atSlot hv (by omega) hpix n
  rw [(step_of_framePhase (s := atSlot n s) hq hb hslot hp).2 ho]
  split
  · next hlast => rw [decodeStep_exhausted hback (by simp [hend, hlast]), hend]
  · next hlast =>
    have hdeliver : deliverBit (atSlot n s).slot.toNat (slotBit (atSlot n s)) (endSlot (atSlot n s)).1 =
        .ok t := by
      rw [hslot, slotBit_atSlot hv hn, hend, hd hlast]
    rw [decodeStep_delivered hback (by simp [hend, hlast]) hdeliver, hslot]

/-! ### ENC.MP -/

/-- PIX after the first `n` slots of a Multi-Plane encode that sends `bit` (R135). -/
def planesWritten (f : Nat) (bit : Nat → Bool) (pix : Memory) : Nat → Memory
  | 0 => pix
  | n + 1 => slotWritten f n (bit n) (planesWritten f bit pix n)

theorem wf_planesWritten {f : Nat} (bit : Nat → Bool) {pix : Memory} (hm : Memory.wf pix) (hf : 0 < f)
    (hspace : f ≤ addressSpace) (n : Nat) : Memory.wf (planesWritten f bit pix n) := by
  induction n with
  | zero => exact hm
  | succ n ih => exact Memory.wf_write ih ((Nat.mod_lt n hf).trans_le hspace)

/-- Bytes beyond the buffer are never written (R189). -/
theorem read_planesWritten_beyond {f : Nat} (bit : Nat → Bool) (pix : Memory) {a : Nat} (hf : 0 < f)
    (ha : f ≤ a) (n : Nat) : (planesWritten f bit pix n).read a = pix.read a := by
  induction n with
  | zero => rfl
  | succ n ih =>
    have hlt := Nat.mod_lt n hf
    rw [planesWritten, slotWritten, Memory.read_write_other (by omega), ih]

/-- Bit `q` of byte `a` is that of slot `q*F + a` once that slot is written, and else as it was (R189). -/
theorem getLsbD_planesWritten {f : Nat} (bit : Nat → Bool) {pix : Memory} (hm : Memory.wf pix)
    (hspace : f ≤ addressSpace) {n : Nat} (hn : n ≤ 8 * f) {a : Nat} (ha : a < f) (q : Nat) :
    ((planesWritten f bit pix n).read a).getLsbD q =
      if q * f + a < n then bit (q * f + a) else (pix.read a).getLsbD q := by
  induction n with
  | zero => simp [planesWritten]
  | succ n ih =>
    have hslot : q * f + a = n ↔ n / f = q ∧ n % f = a := by
      rw [Nat.div_mod_unique (by omega), Nat.mul_comm, Nat.add_comm]
      omega
    rw [planesWritten, slotWritten,
      Memory.read_write (wf_planesWritten bit hm (by omega) hspace n)]
    by_cases heq : q * f + a = n
    · obtain ⟨hq, hmod⟩ := hslot.1 heq
      rw [if_pos hmod, getLsbD_withPlaneBit, toNat_planeAt (by omega), if_pos hq.symm, if_pos (by omega), heq]
    · have hbit : (if q * f + a < n then bit (q * f + a) else (pix.read a).getLsbD q) =
          if q * f + a < n + 1 then bit (q * f + a) else (pix.read a).getLsbD q :=
        if_congr (by omega) rfl rfl
      rw [← hbit, ← ih (by omega)]
      split
      · next hmod =>
        have hq : q ≠ n / f := fun h => heq (hslot.2 ⟨h.symm, hmod⟩)
        rw [getLsbD_withPlaneBit, toNat_planeAt (by omega), if_neg hq, hmod]
      · rfl

/-- ENC.MP from the idle state `s` after `n` slots, but for PHASE, which is `HDR` (R183). -/
def sentMp (s : State) (n : Nat) : State :=
  atSlot n { startGo .enc (startReset .enc .mp s) with
    pix := planesWritten (flatLength s) (frameBit s) s.pix n
    shreg := sendRegister s.pay.read n }

/-- What a whole ENC.MP from the idle state `s` leaves: completion, or `CapacityExhausted` for a frame that
fills the sweep (R183, R184). -/
def encodedMp (s : State) : State :=
  if frameSlots s.plen.toNat = sweepSlots s then raiseExhausted (sentMp s (frameSlots s.plen.toNat))
  else complete (sentMp s (frameSlots s.plen.toNat))

/-- A block at rest with a frame that fits the sweep, on backed memory. -/
structure ReadyToEncodeMp (s : State) : Prop where
  undisturbed : Undisturbed s
  pix_canonical : Memory.wf s.pix
  frame_fits : frameSlots s.plen.toNat ≤ sweepSlots s
  pix_backed : PixBacked s (flatLength s)
  pay_backed : PayBacked s s.plen.toNat

/-- One slot of ENC.MP up to the decision that follows it (R212). -/
theorem ReadyToEncodeMp.step_sentMp {s : State} (h : ReadyToEncodeMp s) {n : Nat}
    (hn : n < frameSlots s.plen.toNat) :
    step (inPhase (framePhase n) (sentMp s n)) = .next (if n + 1 = sweepSlots s
      then raiseExhausted (sentMp s (n + 1)) else afterSlot n (inPhase (framePhase n) (sentMp s (n + 1)))) := by
  have hsweep : n < 8 * flatLength s := hn.trans_le h.frame_fits
  have hspace := flatLength_lt s
  have hpay (h64 : 64 ≤ n) : bodyByte n < s.cfg.paySize ∧ bodyByte n < addressSpace :=
    ⟨(bodyByte_lt_of_frame h64 hn).trans_le h.pay_backed, by unfold bodyByte; omega⟩
  have hchoose := chooseBit_streamBit (s := inPhase (framePhase n) (sentMp s n))
    (toNat_atSlot_slot hsweep.le) rfl rfl hpay
  exact step_encodeMp (s := inPhase (framePhase n) { startGo .enc (startReset .enc .mp s) with
      pix := planesWritten (flatLength s) (frameBit s) s.pix n, shreg := sendRegister s.pay.read n })
    h.undisturbed rfl rfl rfl rfl hsweep h.pix_backed hchoose

/-- ENC.MP run to its end (R183, R184): from a ready block its `64 + 8*L` slots lead to completion, or to the
fault of a full sweep. -/
theorem ReadyToEncodeMp.runsTo {s : State} (h : ReadyToEncodeMp s) :
    RunsTo (frameSlots s.plen.toNat) (startGo .enc (startReset .enc .mp s)) (encodedMp s) := by
  have hfirst : inPhase (framePhase 0) (sentMp s 0) = startGo .enc (startReset .enc .mp s) :=
    atSlot_zero .enc s
  rw [← hfirst]
  refine runsTo_of_steps (f := fun n => inPhase (framePhase n) (sentMp s n))
    (Nat.add_pos_left (by decide) _) fun n hn => (h.step_sentMp hn).trans (congrArg Host.Outcome.next ?_)
  have hafter := afterSlot_encode (s := sentMp s (n + 1)) rfl hn
  have hfits := h.frame_fits
  by_cases hend : n + 1 = frameSlots s.plen.toNat
  · rw [if_pos hend, encodedMp, ← hend, hafter]
    exact if_congr Iff.rfl rfl (if_pos hend)
  · rw [if_neg hend, if_neg (by omega), hafter]
    exact if_neg hend

theorem exec_encMp_starts {s : State} (hs : Accepting s) (hpass : frameSlots s.plen.toNat ≤ precheckSlots s) :
    exec .encMp s = .next (startGo .enc (startReset .enc .mp s)) := by
  rw [← start_passes ((startCheck_encMp_none (startReset .enc .mp s)).2 hpass)]
  exact commandPort_accepting hs

/-- The bits of PIX after `n` slots of ENC.MP are those of the reference function, cut off there (R189). -/
theorem getLsbD_sentMp_pix {s : State} (hm : Memory.wf s.pix) {n : Nat} (hn : n ≤ sweepSlots s) {a : Nat}
    (ha : a < flatLength s) (q : Nat) : ((sentMp s n).pix.read a).getLsbD q =
      if q * flatLength s + a < n then frameBit s (q * flatLength s + a) else (s.pix.read a).getLsbD q :=
  getLsbD_planesWritten (frameBit s) hm (flatLength_lt s).le hn ha q

/-- A frame that leaves a slot of the sweep is complete after its last slot (R183). -/
theorem ReadyToEncodeMp.runsTo_complete {s : State} (h : ReadyToEncodeMp s)
    (hfree : frameSlots s.plen.toNat < sweepSlots s) :
    RunsTo (frameSlots s.plen.toNat) (startGo .enc (startReset .enc .mp s))
      (complete (sentMp s (frameSlots s.plen.toNat))) := by
  have hrun := h.runsTo
  rwa [encodedMp, if_neg hfree.ne] at hrun

/-- A frame that fills the sweep ends with the fault (R184). -/
theorem ReadyToEncodeMp.runsTo_exhausted {s : State} (h : ReadyToEncodeMp s)
    (hfull : frameSlots s.plen.toNat = sweepSlots s) :
    RunsTo (sweepSlots s) (startGo .enc (startReset .enc .mp s)) (raiseExhausted (sentMp s (sweepSlots s))) := by
  have hrun := h.runsTo
  rwa [encodedMp, if_pos hfull, hfull] at hrun

/-- Settles O55: the closed form of the state after the last slot of a frame that leaves one of the sweep. -/
theorem encodeMpRunMeetsReference : Obligations.EncodeMpRunMeetsReference := by
  intro s hinv hs hq hpass hfree hpix hpay
  have h : ReadyToEncodeMp s := ⟨hq, hinv.pix_canonical, hfree.le, hpix, hpay⟩
  have hpos : 0 < flatLength s := by unfold sweepSlots at hfree; omega
  exact ⟨_, _, exec_encMp_starts hs hpass, h.runsTo_complete hfree, ⟨rfl, rfl, rfl, hs.2⟩, rfl,
    fun a q ha _ => getLsbD_sentMp_pix hinv.pix_canonical hfree.le ha q,
    fun a ha => read_planesWritten_beyond _ s.pix hpos ha _, rfl, toNat_atSlot_slot hfree.le, rfl, rfl,
    sendRegister_frame_end _, cursorAtSlot_atSlot hfree⟩

/-- After the last slot the cursor is at the origin of plane 7 (R139). -/
theorem atSlot_sweep_end {s : State} (hpos : 0 < flatLength s) :
    let t := atSlot (8 * flatLength s) s
    t.curRow = 0 ∧ t.curCol = 0 ∧ t.curCh = 0 ∧ t.planeIndex = 7 := by
  have hoffset : 8 * flatLength s % flatLength s = 0 := Nat.mul_mod_left 8 _
  have hplane : planeAt (flatLength s) (8 * flatLength s) = 7 := by
    rw [planeAt, Nat.mul_div_cancel _ hpos]
    rfl
  simp [atSlot, hoffset, hplane]

/-- The fault at the end of the sweep, whatever the command has done to SHREG, LENREG and the memories (R139). -/
theorem endedExhausted_atSlot {s t : State} (hflat : flatLength t = flatLength s) (hpos : 0 < flatLength s) :
    EndedExhausted (flatLength s) (raiseExhausted (atSlot (sweepSlots s) t)) := by
  rw [sweepSlots, ← hflat]
  rw [← hflat] at hpos
  exact endedExhausted_raiseExhausted (s := t) (toNat_atSlot_slot le_rfl) (atSlot_sweep_end hpos)

/-- Settles O56: the last bit is written before the advance raises (R135, R139). -/
theorem encodeMpOfTheFullSweepFaults : Obligations.EncodeMpOfTheFullSweepFaults := by
  intro s hinv hs hq hcfg h8 hlen hpix hpay
  have hfull : frameSlots s.plen.toNat = sweepSlots s := by unfold frameSlots sweepSlots; omega
  have hpass : frameSlots s.plen.toNat ≤ precheckSlots s := by simp [precheckSlots, hcfg, hfull]
  have h : ReadyToEncodeMp s := ⟨hq, hinv.pix_canonical, hfull.le, hpix, hpay⟩
  have hpos : 0 < flatLength s := by omega
  refine ⟨_, _, exec_encMp_starts hs hpass, h.runsTo_exhausted hfull, endedExhausted_atSlot rfl hpos,
    fun a q ha hq8 => ?_,
    fun a ha => read_planesWritten_beyond _ s.pix hpos ha _, rfl, rfl, ?_⟩
  · have hslot : q * flatLength s + a < sweepSlots s := by
      have hplane : q * flatLength s ≤ 7 * flatLength s := Nat.mul_le_mul_right _ (by omega)
      unfold sweepSlots
      omega
    exact (getLsbD_sentMp_pix hinv.pix_canonical le_rfl ha q).trans (if_pos hslot)
  · change sendRegister s.pay.read (sweepSlots s) = 0
    rw [← hfull]
    rcases Nat.eq_zero_or_pos s.plen.toNat with h0 | hpos
    · rw [h0]
      rfl
    · exact sendRegister_frame_end _ hpos

/-! ### DEC.MP -/

/-- A decode inside a payload byte touches no byte of PAY, so none need be backed (R118). -/
theorem deliverBit_received_inside {bit : Nat → Bool} {pay : Memory} {n : Nat} {s : State}
    (hp : s.status.phase = framePhase n) (hn : 64 ≤ n) (hj : bodyBit n ≠ 7) :
    deliverBit n (bit n) (received bit pay n s) = .ok (received bit pay (n + 1) s) := by
  have hlen : receivedLength bit (n + 1) = receivedLength bit n := by
    rw [receivedLength_body bit hn, receivedLength_body bit (by omega)]
  have hbyte : bodyByte (n + 1) = bodyByte n := by unfold bodyBit at hj; unfold bodyByte; omega
  have hbody : (received bit pay n s).status.phase = .body := hp.trans (framePhase_body hn)
  rw [deliverBit_body_inside hbody hj]
  simp only [received, hlen, hbyte, receivedRegister_succ bit hn]

/-- A decode that delivers a bit has received one bit more, if the payload byte it completes is backed (R118). -/
theorem deliverBit_received_of_byte_backed {bit : Nat → Bool} {pay : Memory} {n : Nat} {s : State}
    (hp : s.status.phase = framePhase n)
    (hpay : 64 ≤ n → bodyBit n = 7 → bodyByte n < s.cfg.paySize ∧ bodyByte n < addressSpace) :
    deliverBit n (bit n) (received bit pay n s) = .ok (received bit pay (n + 1) s) := by
  by_cases hin : 64 ≤ n ∧ bodyBit n ≠ 7
  · exact deliverBit_received_inside hp hin.1 hin.2
  · exact deliverBit_received hp fun hn => hpay hn (by_contra fun hj => hin ⟨hn, hj⟩)

/-- The bits a DEC.MP from `s` reads (R136, R189). -/
def sweepBit (s : State) : Nat → Bool := mpSlotBit (flatLength s) s.pix.read

/-- DEC.MP from the idle state `s` after `n` slots, but for PHASE, which is `HDR` (R185). -/
def receivedMp (s : State) (n : Nat) : State :=
  atSlot n (received (sweepBit s) s.pay n (startGo .dec (startReset .dec .mp s)))

/-- DEC.MP from the idle state `s` with slot `n` the last of its sweep: the bit of that slot is lost (R140,
R187). -/
def exhaustedMp (s : State) (n : Nat) : State :=
  raiseExhausted (atSlot (n + 1)
    (received (sweepBit s) s.pay n (startGo .dec (startReset .dec .mp s))))

/-- A block at rest with a buffer, on backed memory. -/
structure ReadyToDecodeMp (s : State) : Prop where
  undisturbed : Undisturbed s
  pay_canonical : Memory.wf s.pay
  buffer : 0 < flatLength s
  pix_backed : PixBacked s (flatLength s)
  pay_backed : PayBacked s (flatLength s - 9)

/-- The payload byte a slot completes before the last slot of the sweep (R72 (d)). -/
theorem bodyByte_lt_of_sweep {f n : Nat} (hn : n + 1 < 8 * f) (h64 : 64 ≤ n) (hj : bodyBit n = 7) :
    bodyByte n < f - 9 := by
  have hslot := slot_eq_of_body h64
  omega

/-- One slot of DEC.MP up to the decision that follows it (R212). -/
theorem ReadyToDecodeMp.step_receivedMp {s : State} (h : ReadyToDecodeMp s) {n : Nat}
    (hn : n < sweepSlots s) :
    step (inPhase (framePhase n) (receivedMp s n)) = .next (if n + 1 = sweepSlots s then exhaustedMp s n
      else afterSlot n (inPhase (framePhase n) (receivedMp s (n + 1)))) := by
  have hpay (hlast : n + 1 ≠ sweepSlots s) (h64 : 64 ≤ n) (hj : bodyBit n = 7) :
      bodyByte n < s.cfg.paySize ∧ bodyByte n < addressSpace := by
    have hbyte := bodyByte_lt_of_sweep (Nat.lt_of_le_of_ne hn hlast) h64 hj
    exact ⟨hbyte.trans_le h.pay_backed, hbyte.trans_le ((Nat.sub_le _ _).trans (flatLength_lt s).le)⟩
  exact step_decodeMp
    (s := inPhase (framePhase n) (received (sweepBit s) s.pay n (startGo .dec (startReset .dec .mp s))))
    h.undisturbed rfl rfl rfl rfl hn h.pix_backed fun hlast => deliverBit_received_of_byte_backed
      (s := atSlot (n + 1) (inPhase (framePhase n) (startGo .dec (startReset .dec .mp s)))) rfl (hpay hlast)

/-- The header of the buffer (R113). -/
def headerMp (s : State) : Nat := bitsValue (sweepBit s) 0 64

theorem toNat_receivedMp_lenreg (s : State) {n : Nat} (h : 64 ≤ n) :
    (receivedMp s n).lenreg.toNat = headerMp s := toNat_receivedLength (sweepBit s) h

/-- DEC.MP rejects a header of 0 only (R186). -/
theorem headerRejected_receivedMp (s : State) :
    headerRejected (receivedMp s 64) = true ↔ headerMp s = 0 := by
  have hv : (receivedMp s 64).status.varl = .mp := rfl
  have hzero : (receivedMp s 64).lenreg = 0 ↔ headerMp s = 0 := by
    rw [← toNat_receivedMp_lenreg s le_rfl, BitVec.toNat_eq]
    rfl
  simp only [headerRejected, hv, decide_eq_true_eq, hzero]

/-- DEC.MP goes on to the next slot unless its sweep, its header or its frame ends (R210, R211). -/
theorem ReadyToDecodeMp.step_goes_on {s : State} (h : ReadyToDecodeMp s) {n : Nat}
    (hn : n + 1 < sweepSlots s) (hheader : n = 63 → headerMp s ≠ 0)
    (hbody : 64 ≤ n → n + 1 ≠ frameSlots (headerMp s)) :
    step (inPhase (framePhase n) (receivedMp s n)) =
      .next (inPhase (framePhase (n + 1)) (receivedMp s (n + 1))) := by
  rw [h.step_receivedMp (by omega), if_neg hn.ne]
  rcases Nat.lt_trichotomy n 63 with hlt | rfl | hge
  · rw [afterSlot_header_inside _ hlt]
  · rw [afterSlot_decode_header_end rfl, if_neg (mt (headerRejected_receivedMp s).1 (hheader rfl))]
  · rw [afterSlot_decode_body rfl hge, toNat_receivedMp_lenreg s (by omega), if_neg (hbody hge)]

/-- A DEC.MP that goes on until slot `n - 1` ends with what that slot leaves. -/
theorem ReadyToDecodeMp.runsTo {s t : State} (h : ReadyToDecodeMp s) {n : Nat} (hpos : 0 < n)
    (hn : n ≤ sweepSlots s) (hheader : 64 < n → headerMp s ≠ 0) (hbody : n ≤ frameSlots (headerMp s))
    (hlast : step (inPhase (framePhase (n - 1)) (receivedMp s (n - 1))) = .next t) :
    RunsTo n (startGo .dec (startReset .dec .mp s)) t := by
  have hfirst : inPhase (framePhase 0) (receivedMp s 0) = startGo .dec (startReset .dec .mp s) :=
    atSlot_zero .dec s
  rw [← hfirst]
  refine runsTo_of_steps (f := fun i => inPhase (framePhase i) (receivedMp s i)) hpos fun i hi => ?_
  split
  · next hend =>
    obtain rfl : i = n - 1 := by omega
    exact hlast
  · exact h.step_goes_on (by omega) (fun h63 => hheader (by omega)) fun h64 => by omega

/-- DEC.MP of a buffer whose header is 0 ends with its header (R186). -/
theorem ReadyToDecodeMp.runsTo_noData {s : State} (h : ReadyToDecodeMp s) (h9 : 9 ≤ flatLength s)
    (hzero : headerMp s = 0) :
    RunsTo 64 (startGo .dec (startReset .dec .mp s)) (completeNoData (receivedMp s 64)) := by
  have hsweep : 64 < sweepSlots s := by unfold sweepSlots; omega
  refine h.runsTo (by decide) hsweep.le (by omega) (by rw [hzero]; exact le_rfl) ?_
  rw [h.step_receivedMp (by omega), if_neg hsweep.ne, afterSlot_decode_header_end rfl,
    if_pos ((headerRejected_receivedMp s).2 hzero)]

/-- DEC.MP of a buffer whose frame leaves a slot of the sweep ends with its payload (R185). -/
theorem ReadyToDecodeMp.runsTo_payload {s : State} (h : ReadyToDecodeMp s) (hpos : 0 < headerMp s)
    (hfree : frameSlots (headerMp s) < sweepSlots s) :
    RunsTo (frameSlots (headerMp s)) (startGo .dec (startReset .dec .mp s))
      (completeWithData (receivedMp s (frameSlots (headerMp s)))) := by
  obtain ⟨n, hn⟩ : ∃ n, frameSlots (headerMp s) = n + 1 :=
    ⟨63 + 8 * headerMp s, by unfold frameSlots; omega⟩
  have hbody : 64 ≤ n := by unfold frameSlots at hn; omega
  refine h.runsTo (by omega) hfree.le (fun _ => hpos.ne') le_rfl ?_
  rw [hn, Nat.add_sub_cancel, h.step_receivedMp (by omega), if_neg (by omega),
    afterSlot_decode_body rfl hbody, toNat_receivedMp_lenreg s (by omega), if_pos hn.symm]

/-- DEC.MP of a buffer whose header or frame does not end before the sweep does (R187). -/
theorem ReadyToDecodeMp.runsTo_exhausted {s : State} (h : ReadyToDecodeMp s)
    (hheader : 9 ≤ flatLength s → headerMp s ≠ 0) (hlong : sweepSlots s ≤ frameSlots (headerMp s)) :
    RunsTo (sweepSlots s) (startGo .dec (startReset .dec .mp s)) (exhaustedMp s (sweepSlots s - 1)) := by
  have hpos : 0 < sweepSlots s := Nat.mul_pos (by decide) h.buffer
  refine h.runsTo hpos le_rfl (fun h64 => hheader (by unfold sweepSlots at h64; omega)) hlong ?_
  rw [h.step_receivedMp (by omega), if_pos (by omega)]

theorem exec_decMp_starts {s : State} (hs : Accepting s) (hpos : 0 < flatLength s) :
    exec .decMp s = .next (startGo .dec (startReset .dec .mp s)) := by
  rw [← start_passes ((startCheck_decMp_none (startReset .dec .mp s)).2 hpos)]
  exact commandPort_accepting hs

/-- What PAY holds after a decode of a frame of `len` bytes. -/
theorem receivedMp_pay (s : State) (len : Nat) :
    (receivedMp s (frameSlots len)).pay = receivedPay (sweepBit s) s.pay len := by
  have hbytes : bodyByte (frameSlots len) = len := by unfold bodyByte frameSlots; omega
  change receivedPay (sweepBit s) s.pay (bodyByte (frameSlots len)) = _
  rw [hbytes]

/-- A DEC.MP with a payload leaves it in PAY, and what PAY held beyond (R185). -/
theorem ReadyToDecodeMp.delivered {s : State} (h : ReadyToDecodeMp s) (hpos : 0 < headerMp s)
    (hfree : frameSlots (headerMp s) < sweepSlots s) :
    Delivered (payloadOf (sweepBit s) (headerMp s))
        (completeWithData (receivedMp s (frameSlots (headerMp s)))) ∧
      ∀ k, headerMp s ≤ k → (receivedMp s (frameSlots (headerMp s))).pay.read k = s.pay.read k := by
  have hspace := flatLength_lt s
  have hlen : headerMp s ≤ addressSpace := by unfold frameSlots sweepSlots at hfree; omega
  have hreg := toNat_receivedMp_lenreg s (Nat.le_add_right 64 (8 * headerMp s))
  refine ⟨?_, fun k hk => ?_⟩
  · rw [Delivered, length_payloadOf, payloadBytes, completeWithData_pay, receivedMp_pay]
    exact ⟨readBytes_receivedPay (sweepBit s) h.pay_canonical hlen, hreg, hreg, toNat_atSlot_slot hfree.le,
      getLast?_payloadOf (sweepBit s) hpos⟩
  · rw [receivedMp_pay, read_receivedPay (sweepBit s) h.pay_canonical hlen, if_neg (by omega)]

/-- A decode that meets the end of the sweep stops there (R139, R187). -/
theorem ReadyToDecodeMp.exhausted_ends {s : State} (h : ReadyToDecodeMp s) :
    EndedExhausted (flatLength s) (exhaustedMp s (sweepSlots s - 1)) := by
  have hlast : sweepSlots s - 1 + 1 = sweepSlots s := Nat.sub_add_cancel (Nat.mul_pos (by decide) h.buffer)
  rw [exhaustedMp, hlast]
  exact endedExhausted_atSlot rfl h.buffer

/-- The end of the sweep leaves the `F - 9` payload bytes completed before it, and what PAY held beyond
(R187). -/
theorem ReadyToDecodeMp.exhausted_pay {s : State} (h : ReadyToDecodeMp s) :
    payloadBytes (exhaustedMp s (sweepSlots s - 1)) (flatLength s - 9) =
        payloadOf (sweepBit s) (flatLength s - 9) ∧
      ∀ k, flatLength s - 9 ≤ k → (exhaustedMp s (sweepSlots s - 1)).pay.read k = s.pay.read k := by
  have hspace := flatLength_lt s
  have hbytes : bodyByte (sweepSlots s - 1) = flatLength s - 9 := by unfold bodyByte sweepSlots; omega
  have hpay : (exhaustedMp s (sweepSlots s - 1)).pay =
      receivedPay (sweepBit s) s.pay (flatLength s - 9) := by rw [← hbytes]; rfl
  rw [payloadBytes, hpay]
  refine ⟨readBytes_receivedPay (sweepBit s) h.pay_canonical (by omega), fun k hk => ?_⟩
  rw [read_receivedPay (sweepBit s) h.pay_canonical (by omega), if_neg (by omega)]

/-- LENREG at the end of the sweep: the header, or the bits received of it (R187). -/
theorem toNat_exhaustedMp_lenreg (s : State) (n : Nat) :
    (exhaustedMp s n).lenreg.toNat = bitsValue (sweepBit s) 0 (min 64 n) := by
  change (receivedLength (sweepBit s) n).toNat = _
  have hlt := bitsValue_lt (sweepBit s) 0 (min 64 n)
  have hpow : 2 ^ min 64 n ≤ 2 ^ 64 := Nat.pow_le_pow_right (by decide) (Nat.min_le_left _ _)
  rw [receivedLength, Nat.min_comm, BitVec.toNat_ofNat, Nat.mod_eq_of_lt (hlt.trans_le hpow)]

/-- SHREG after at least a byte of body bits is the number the last eight spell (R118). -/
theorem toNat_receivedRegister_of_byte (bit : Nat → Bool) {n : Nat} (h : 72 ≤ n) :
    (receivedRegister bit n).toNat = bitsValue bit (n - 8) 8 := by
  obtain ⟨m, rfl⟩ : ∃ m, n = 64 + (m + 8) := ⟨n - 72, by omega⟩
  have hlt := bitsValue_lt bit (64 + m) 8
  have hslot : 64 + (m + 8) - 8 = 64 + m := by omega
  rw [receivedRegister, Nat.add_sub_cancel_left, bitsValue_add, hslot, BitVec.toNat_ofNat]
  omega

/-- SHREG after at most a byte of body bits is the number they spell (R118). -/
theorem toNat_receivedRegister_of_first (bit : Nat → Bool) {n : Nat} (h : n ≤ 72) :
    (receivedRegister bit n).toNat = bitsValue bit 64 (n - 64) := by
  have hlt := bitsValue_lt bit 64 (n - 64)
  have hpow : 2 ^ (n - 64) ≤ 2 ^ 8 := Nat.pow_le_pow_right (by decide) (by omega)
  rw [receivedRegister, BitVec.toNat_ofNat, Nat.mod_eq_of_lt (hlt.trans_le hpow)]

/-- SHREG at the end of the sweep (R187). -/
theorem toNat_exhaustedMp_shreg (s : State) : (exhaustedMp s (sweepSlots s - 1)).shreg.toNat =
    if flatLength s ≤ 8 then 0
    else if flatLength s = 9 then bitsValue (sweepBit s) 64 7
    else bitsValue (sweepBit s) (sweepSlots s - 9) 8 := by
  change (receivedRegister (sweepBit s) (sweepSlots s - 1)).toNat = _
  have hsweep : sweepSlots s = 8 * flatLength s := rfl
  split_ifs with h8 h9
  · rw [receivedRegister_header _ (by omega)]
    rfl
  · rw [toNat_receivedRegister_of_first _ (by omega), hsweep, h9]
  · rw [toNat_receivedRegister_of_byte _ (by omega), Nat.sub_sub]

/-- What the reference decoder says: a frame that leaves a slot of the sweep has `F >= 9` (R189). -/
theorem referenceDecodeMp_eq (s : State) : referenceDecodeMp (flatLength s) s.pix.read =
    if 9 ≤ flatLength s ∧ headerMp s = 0 then .noData
    else if frameSlots (headerMp s) < sweepSlots s then .payload (payloadOf (sweepBit s) (headerMp s))
    else .exhausted := by
  have hfree : frameSlots (headerMp s) < sweepSlots s ↔ headerMp s + 9 ≤ flatLength s := by
    unfold frameSlots sweepSlots
    omega
  rw [referenceDecodeMp]
  by_cases h8 : flatLength s ≤ 8
  · rw [if_pos h8, if_neg (by omega), if_neg (by omega)]
  · have h9 : 9 ≤ flatLength s := by omega
    simp only [if_neg h8, hfree, h9, true_and]
    rfl

/-- Settles O57, by the header: the closed form of the state after slot 63, after the last slot of the frame, or
after the last of the sweep. -/
theorem decodeMpRunMeetsReference : Obligations.DecodeMpRunMeetsReference := by
  intro s hinv hs hq hpos hpix hpay
  have h : ReadyToDecodeMp s := ⟨hq, hinv.pay_canonical, hpos, hpix, hpay⟩
  refine ⟨_, exec_decMp_starts hs hpos, ?_⟩
  rw [referenceDecodeMp_eq]
  by_cases hzero : 9 ≤ flatLength s ∧ headerMp s = 0
  · rw [if_pos hzero]
    have hsweep : 64 < sweepSlots s := by unfold sweepSlots; omega
    exact ⟨_, h.runsTo_noData hzero.1 hzero.2, ⟨rfl, rfl, rfl, hs.2⟩, rfl, rfl, rfl, rfl,
      toNat_atSlot_slot hsweep.le, BitVec.eq_of_toNat_eq ((toNat_receivedMp_lenreg s le_rfl).trans hzero.2), rfl,
      cursorAtSlot_atSlot hsweep⟩
  rw [if_neg hzero]
  by_cases hfree : frameSlots (headerMp s) < sweepSlots s
  · rw [if_pos hfree]
    have hlen : 0 < headerMp s := by unfold frameSlots sweepSlots at hfree; omega
    obtain ⟨hdel, hframe⟩ := h.delivered hlen hfree
    simp only [length_payloadOf]
    exact ⟨_, h.runsTo_payload hlen hfree, ⟨rfl, rfl, rfl, hs.2⟩, rfl, hdel, rfl,
      cursorAtSlot_atSlot hfree, hframe⟩
  · rw [if_neg hfree]
    have hrun := h.runsTo_exhausted (fun h9 h0 => hzero ⟨h9, h0⟩) (Nat.le_of_not_lt hfree)
    obtain ⟨hbytes, hframe⟩ := h.exhausted_pay
    exact ⟨_, hrun, h.exhausted_ends, rfl, hbytes, hframe, toNat_exhaustedMp_lenreg s _,
      toNat_exhaustedMp_shreg s⟩

/-! ### The round trip -/

/-- What ENC.MP leaves spells its frame, slot by slot (R189). -/
theorem sweepBit_sentMp {s : State} (hm : Memory.wf s.pix) {n : Nat} (hn : n ≤ sweepSlots s) {i : Nat}
    (hi : i < n) : sweepBit (sentMp s n) i = frameBit s i := by
  have hpos : 0 < flatLength s := by unfold sweepSlots at hn; omega
  have hslot : i / flatLength s * flatLength s + i % flatLength s = i := by
    rw [Nat.mul_comm, Nat.div_add_mod]
  refine (getLsbD_sentMp_pix hm hn (Nat.mod_lt i hpos) (i / flatLength s)).trans ?_
  rw [hslot, if_pos hi]

/-- A delivered payload whose slots spell the frame of `p` is `p` (R119). -/
theorem Delivered.of_frame {bit : Nat → Bool} {len : XWord} {p : Nat → Byte} {t : State}
    (h : Delivered (payloadOf bit len.toNat) t)
    (hbit : ∀ i, i < frameSlots len.toNat → bit i = streamBit len.toNat p i) :
    t.rlen = len ∧ payloadBytes t len.toNat = (List.range len.toNat).map p := by
  obtain ⟨hbytes, hrlen, -⟩ := h
  rw [length_payloadOf] at hbytes hrlen
  exact ⟨BitVec.eq_of_toNat_eq hrlen, hbytes.trans (payloadOf_frame len.isLt hbit)⟩

/-- DEC.MP of a buffer whose first slots spell a frame that leaves one of the sweep recovers its payload (R190). -/
theorem ReadyToDecodeMp.recovers {s : State} (h : ReadyToDecodeMp s) {len : XWord} {p : Nat → Byte}
    (hfree : frameSlots len.toNat < sweepSlots s)
    (hbit : ∀ i, i < frameSlots len.toNat → sweepBit s i = streamBit len.toNat p i) :
    ∃ t, RunsTo (frameSlots len.toNat) (startGo .dec (startReset .dec .mp s)) t ∧
      t.status = { (startGo .dec (startReset .dec .mp s)).status with
        busy := false, phase := .idle, done := true, nodata := decide (len = 0) } ∧
      t.rlen = len ∧ payloadBytes t len.toNat = (List.range len.toNat).map p := by
  have hheader : headerMp s = len.toNat := bitsValue_frame_header len.isLt hbit
  by_cases h0 : len = 0
  · subst h0
    have h9 : 9 ≤ flatLength s := by unfold frameSlots sweepSlots at hfree; omega
    exact ⟨_, h.runsTo_noData h9 hheader, rfl, rfl, rfl⟩
  · have hpos : 0 < len.toNat := Nat.pos_of_ne_zero fun hz => h0 (BitVec.eq_of_toNat_eq hz)
    rw [← hheader] at hpos hfree
    have hrun := h.runsTo_payload hpos hfree
    have hdel := (h.delivered hpos hfree).1
    rw [hheader] at hrun hdel
    obtain ⟨hrlen, hbytes⟩ := hdel.of_frame hbit
    exact ⟨_, hrun, by rw [decide_eq_false h0]; rfl, hrlen, hbytes⟩

/-- Settles O58: what ENC.MP leaves spells its frame, and DEC.MP recovers the payload of a frame. -/
theorem roundTripMp : Obligations.RoundTripMp := by
  intro s pay hinv hs hq hpass hfit hpix hpay hwf
  have hfree : frameSlots s.plen.toNat < sweepSlots s := by unfold frameSlots sweepSlots; omega
  have hslots : frameSlots s.plen.toNat ≤ precheckSlots s := by unfold frameSlots; omega
  have hencode : ReadyToEncodeMp s := ⟨hq, hinv.pix_canonical, hfree.le, hpix, by omega⟩
  have hbit (i : Nat) (hi : i < frameSlots s.plen.toNat) :
      sweepBit (sentMp s (frameSlots s.plen.toNat)) i = streamBit s.plen.toNat s.pay.read i :=
    sweepBit_sentMp hinv.pix_canonical hfree.le hi
  have hpos : 0 < flatLength s := by omega
  have hdecode : ReadyToDecodeMp { complete (sentMp s (frameSlots s.plen.toNat)) with pay := pay } :=
    ⟨hq, hwf, hpos, hpix, (Nat.sub_le _ _).trans hpay⟩
  obtain ⟨w, hrun, hstatus, hrlen, hbytes⟩ := hdecode.recovers (len := s.plen) hfree hbit
  refine ⟨_, _, _, w, exec_encMp_starts hs hslots, hencode.runsTo_complete hfree, ⟨rfl, rfl, rfl, hs.2⟩,
    exec_decMp_starts ⟨rfl, hs.2⟩ hpos, hrun, ?_, by simp [hstatus], hrlen, ?_, fun hz n hn => ?_⟩
  · rw [Completed, hstatus]
    exact ⟨rfl, rfl, rfl, hs.2⟩
  · rw [hbytes]
    exact List.map_congr_left fun k _ => by rw [Nat.zero_add]
  · refine (hbit n (Nat.lt_add_right _ hn)).trans ?_
    rw [hz, streamBit_header _ _ hn]
    simp

/-! ### What both variants agree on -/

/-- In plane 0 the Multi-Plane encode writes what the Plane-0 encode does (R191). -/
theorem planesWritten_plane_zero {f : Nat} (bit : Nat → Bool) (pix : Memory) {n : Nat} (hn : n ≤ f) :
    planesWritten f bit pix n = bitZeroWritten bit pix n := by
  induction n with
  | zero => rfl
  | succ n ih =>
    have hplane : planeAt f n = 0 := by
      rw [planeAt, Nat.div_eq_of_lt hn]
      rfl
    rw [planesWritten, slotWritten, ih (by omega), Nat.mod_eq_of_lt hn, hplane, withPlaneBit_zero]
    rfl

/-- Settles O59: the two runs write the same bytes in the same order. -/
theorem variantsAgreeInPlaneZero : Obligations.VariantsAgreeInPlaneZero := by
  intro s hinv hs hq hfit hpix hpay
  have hlen : s.plen.toNat ≤ flatLength s := by unfold frameSlots at hfit; omega
  have hfree : frameSlots s.plen.toNat < sweepSlots s := by unfold frameSlots at *; unfold sweepSlots; omega
  have hp0 : ReadyToEncodeP0 s := ⟨hq, hinv.pix_canonical, hfit, hfit.trans hpix, hlen.trans hpay⟩
  have hmp : ReadyToEncodeMp s := ⟨hq, hinv.pix_canonical, hfree.le, hpix, hlen.trans hpay⟩
  exact ⟨_, _, _, _, exec_encP0_starts hs hfit, hp0.runsTo, ⟨rfl, rfl, rfl, hs.2⟩,
    exec_encMp_starts hs (hfit.trans (flatLength_le_precheckSlots s)), hmp.runsTo_complete hfree,
    ⟨rfl, rfl, rfl, hs.2⟩, (planesWritten_plane_zero (frameBit s) s.pix hfit).symm⟩

theorem bitsValue_congr {bit bit' : Nat → Bool} {s n : Nat} (h : ∀ i, i < n → bit (s + i) = bit' (s + i)) :
    bitsValue bit s n = bitsValue bit' s n := by
  induction n with
  | zero => rfl
  | succ n ih => rw [bitsValue, bitsValue, ih fun i hi => h i (by omega), h n (by omega)]

theorem payloadOf_congr {bit bit' : Nat → Bool} {len : Nat} (h : ∀ i, i < frameSlots len → bit i = bit' i) :
    payloadOf bit len = payloadOf bit' len := by
  refine List.map_congr_left fun k hk => congrArg (BitVec.ofNat 8) (bitsValue_congr fun i hi => h _ ?_)
  have hlt := List.mem_range.1 hk
  unfold frameSlots
  omega

/-- The slots of plane 0 are those of the Plane-0 codec (R191). -/
theorem mpSlotBit_plane_zero {f : Nat} (pix : Nat → Byte) {n : Nat} (hn : n < f) :
    mpSlotBit f pix n = (pix n).getLsbD 0 := by
  rw [mpSlotBit, Nat.mod_eq_of_lt hn, Nat.div_eq_of_lt hn]

/-- Settles O60: the header and every frame up to `maxP0` lie in plane 0. -/
theorem decodersAgreeUpToMaxP0 : Obligations.DecodersAgreeUpToMaxP0 := by
  intro f pix h64 len
  have hheader : bitsValue (mpSlotBit f pix) 0 64 = len :=
    bitsValue_congr fun i hi => mpSlotBit_plane_zero pix (by omega)
  have hover : ((f / 8 : Nat) : Int) - 8 < (len : Int) ↔ f / 8 - 8 < len := by omega
  have hp0 : referenceDecodeP0 f pix = if len = 0 ∨ f / 8 - 8 < len then .noData
      else .payload (payloadOf (fun a => (pix a).getLsbD 0) len) := if_congr (or_congr_right hover) rfl rfl
  have hmp : referenceDecodeMp f pix = if len = 0 then .noData
      else if len + 9 ≤ f then .payload (payloadOf (mpSlotBit f pix) len) else .exhausted := by
    rw [referenceDecodeMp, if_neg (by omega), hheader]
  rw [hp0, hmp]
  refine ⟨fun hle => ?_, fun hlt => ⟨if_pos (.inr hlt), ?_⟩⟩
  · by_cases hzero : len = 0
    · rw [if_pos (.inl hzero), if_pos hzero]
    · have hplane (i : Nat) (hi : i < frameSlots len) : mpSlotBit f pix i = (pix i).getLsbD 0 :=
        mpSlotBit_plane_zero pix (by unfold frameSlots at hi; omega)
      rw [if_neg (by omega), if_neg hzero, if_pos (by omega), payloadOf_congr hplane]
  · rw [if_neg (by omega)]
    split <;> nofun

end Sys2Proof.Machine
end

section
/-! PROOFS. The capacity query of the Multi-Plane codec (spec/43_multiplane_codec.md R181). -/

namespace Sys2Proof.Machine

theorem toNat_capacityMp (s : State) :
    (capacityMp s).toNat = min (precheckSlots s / 8 - 8) (flatLength s - 9) := by
  unfold capacityMp; omega

theorem capacityMp_neg_iff (s : State) :
    capacityMp s < 0 ↔ precheckSlots s / 8 < 8 ∨ flatLength s < 9 := by
  unfold capacityMp; omega

/-- CAP.MP reports the capacity of R181, which is below `2^40`. -/
theorem toNat_capacityMp_capbytes (s : State) : (capacity .mp (capacityMp s) s).capbytes.toNat =
    min (precheckSlots s / 8 - 8) (flatLength s - 9) := by
  have hspace := flatLength_lt s
  rw [addressSpace_eq] at hspace
  have hbound : capacityMp s < 2 ^ 64 := by unfold capacityMp; omega
  rw [toNat_capacity_capbytes .mp hbound, toNat_capacityMp]

/-- Settles O27: with the sweep pre-check `floor(PS/8)` is `F`. -/
theorem capMpReportsCapacity : Obligations.CapMpReportsCapacity := by
  intro s hs
  refine ⟨_, exec_capMp hs, toNat_capacityMp_capbytes s, fun hcfg => ?_, ?_, capacity_registers .mp _ s,
    ⟨fun _ => rfl, fun _ => rfl⟩, rfl, rfl, rfl, rfl⟩
  · have hsweep : precheckSlots s = 8 * flatLength s := by simp only [precheckSlots, hcfg, sweepSlots]
    rw [toNat_capacityMp_capbytes, hsweep]
    omega
  · simp only [capacity_status, Status.afterCap, capacityMp_neg_iff]

end Sys2Proof.Machine
end

section
/-! PROOFS. The statements on the system commands (spec/44_system_commands.md), first those of the host: the
register accesses, NOP and CLR, a CMD write, START (R200 to R207). -/

namespace Sys2Proof.Machine

/-! ### NOP, CLR and the register accesses -/

/-- NOP leaves the state whether or not the port looks at it (R204). -/
theorem exec_nop (s : State) : exec .nop s = .next s := by
  rcases commandPort_cases true id s with he | ⟨-, -, he⟩ <;> exact he

/-- Settles O12: the word is the first row of the command map. -/
theorem nopChangesNothing : Obligations.NopChangesNothing := by
  obtain ⟨hword, -⟩ := commandMapWords
  exact ⟨hword, exec_nop⟩

/-- CLR reaches STATUS, CAUSE and FINFO only (R205). -/
theorem clearRecord_registers (s : State) : SameRegistersBut [2, 3, 4] s (clearRecord s) := by
  intro n hn
  unfold csrRead
  split <;> simp_all

/-- Settles O13: with BUSY = 0 the port takes CLR whatever FAULT is. -/
theorem clrClearsFlagsAndRecord : Obligations.ClrClearsFlagsAndRecord :=
  fun s hb => ⟨clearRecord s, commandPort_always hb, rfl, rfl, rfl, clearRecord_registers s,
    ⟨fun _ => rfl, fun _ => rfl⟩, rfl, rfl, rfl, rfl⟩

/-- Settles O14: no register is the host's, and CMD and the reserved numbers read 0. -/
theorem csrrOnlyReads : Obligations.CsrrOnlyReads := by
  refine fun s n => ⟨{ s with hostValue := csrRead s n }, rfl, rfl, rfl, fun _ _ => rfl,
    ⟨fun _ => rfl, fun _ => rfl⟩, ?_⟩
  rintro (rfl | hn)
  · rfl
  · exact csrRead_reserved s hn

/-- With BUSY = 0 a write of a register other than CMD is a store (R202). -/
theorem exec_csrw_store {s : State} (hb : s.status.busy = false) {n : Nat} (hn : n ≠ 1) (value : XWord) :
    exec (.csrw n value) s = .next (csrStore s n value) := by
  simp [exec, execCsrw, hb, hn]

/-- A store reaches the register of its number only. -/
theorem csrStore_registers (s : State) (n : Nat) (value : XWord) :
    SameRegistersBut [n] s (csrStore s n value) := by
  intro m hm
  unfold csrStore
  split
  case h_5 => rfl
  all_goals
    unfold csrRead
    split <;> simp_all

@[simp] theorem csrStore_status (s : State) (n : Nat) (value : XWord) :
    (csrStore s n value).status = s.status := by
  unfold csrStore
  split <;> rfl

theorem csrStore_surroundings (s : State) (n : Nat) (value : XWord) :
    SameSurroundings s (csrStore s n value) := by
  unfold csrStore
  split <;> exact ⟨rfl, rfl, rfl, rfl⟩

/-- A store into a read-only or a reserved number stores nothing (R22 (a)). -/
theorem csrStore_readOnly {n : Nat} (hn : n < 5 ∨ 8 < n) (s : State) (value : XWord) :
    csrStore s n value = s := by
  unfold csrStore
  split
  case h_5 => rfl
  all_goals omega

/-- A store keeps the low bits of the value, as many as the register has (R22 (c)). -/
theorem toNat_csrRead_csrStore (s : State) {n : Nat} (h5 : 5 ≤ n) (h8 : n ≤ 8) (value : XWord) :
    (csrRead (csrStore s n value) n).toNat =
      value.toNat % 2 ^ (if n = 8 then 64 else if n = 7 then 8 else 16) := by
  have hlow {w : Nat} (hw : w ≤ 64) : ((value.setWidth w).setWidth 64).toNat = value.toNat % 2 ^ w := by
    rw [BitVec.toNat_setWidth_of_le hw, BitVec.toNat_setWidth]
  obtain rfl | rfl | rfl | rfl : n = 5 ∨ n = 6 ∨ n = 7 ∨ n = 8 := by omega
  · exact hlow (by decide)
  · exact hlow (by decide)
  · exact hlow (by decide)
  · exact (Nat.mod_eq_of_lt value.isLt).symm

/-- Settles O18: the four numbers are stores. -/
theorem csrwStoresTheLowBits : Obligations.CsrwStoresTheLowBits := by
  intro s n value hb h5 h8
  obtain ⟨hpix, hpay⟩ := csrStore_memories s n value
  exact ⟨_, exec_csrw_store hb (by omega) value, toNat_csrRead_csrStore s h5 h8 value,
    csrStore_status s n value, csrStore_registers s n value,
    ⟨fun _ => by rw [hpix], fun _ => by rw [hpay]⟩, csrStore_surroundings s n value⟩

/-- Settles O19: BUSY = 1 ignores the write, and with BUSY = 0 it stores nothing. -/
theorem csrwOfReadOnlyChangesNothing : Obligations.CsrwOfReadOnlyChangesNothing := by
  intro s n value h1 hn
  cases hb : s.status.busy with
  | true => exact exec_busy hb nofun
  | false => rw [exec_csrw_store hb h1, csrStore_readOnly hn]

/-- Settles O20: a CMD write is the word at the command port, which runs what it decodes to. -/
theorem csrwOfCmdIsTheCommand : Obligations.CsrwOfCmdIsTheCommand :=
  fun s c => ⟨fun _ hd => (exec_csrw_cmd c s).trans (hostAccess_of_decode_ok hd s),
    fun _ _ => exec_csrw_cmd c s⟩

/-! ### Turns -/

/-- Settles O5: the turn is the access, which runs what it decodes to or takes the fault of its word. -/
theorem stepRunsTheDecodedAccess : Obligations.StepRunsTheDecodedAccess := by
  intro s w rest hturns
  have hstep : step s = hostAccess w { s with turns := rest } := step_turn hturns
  refine ⟨hstep, fun i hd => hstep.trans (hostAccess_of_decode_ok hd _), ?_⟩
  rintro c e rfl hd hs
  rw [hstep]
  exact hostAccess_illegal hd hs

/-- Settles O6: with nothing pending, and on a core turn, the core is asked. -/
theorem coreMovesExactlyWhileBusy : Obligations.CoreMovesExactlyWhileBusy := fun _ =>
  ⟨fun hturns hb => (step_nothing_pending hturns).trans (coreTurn_busy hb),
    fun hturns hb => (step_nothing_pending hturns).trans (coreTurn_idle hb),
    fun _ hturns hb => (step_turn hturns).trans (coreTurn_busy hb),
    fun _ hturns hb => (step_turn hturns).trans (coreTurn_idle hb)⟩

/-- A table word of 64 bits is the command word that carries it. -/
theorem decodeTableWord_64 {w : Nat} {i : Instr} (h : decodeTableWord 64 w = some i) :
    decode (.cmd (BitVec.ofNat 64 (w % 2 ^ 64))) = .ok i := by
  have hword : tableCommandWord 64 w = some (BitVec.ofNat 64 (w % 2 ^ 64)) := by simp [tableCommandWord]
  simp only [decodeTableWord, hword] at h
  split at h
  · next hd => exact Option.some.inj h ▸ hd
  · cases h

/-- Settles O7: the placed word is the oldest turn, and the state without it is the state before. -/
theorem placedWordRunsNext : Obligations.PlacedWordRunsNext := by
  intro s w i _ hd
  have hstep : step (s.withFetchWord 64 w) = hostAccess (.cmd (BitVec.ofNat 64 (w % 2 ^ 64))) s :=
    step_turn (pushCommandWord_turns s 64 w)
  exact hstep.trans (hostAccess_of_decode_ok (decodeTableWord_64 hd) s)

/-! ### START -/

/-- What a START that goes leaves, for either operation and variant (R207). -/
theorem startedAs_startGo (op : Operation) (var : Variant) (s : State) :
    StartedAs op var (if op = .enc then s.plen else 0) s (startGo op (startReset op var s)) where
  status := rfl
  cursor := ⟨rfl, rfl, rfl, rfl⟩
  slot := rfl
  shreg := rfl
  lenreg := rfl
  rlen := rfl
  registers := by
    intro n hn
    unfold csrRead
    split <;> simp_all
  memories := ⟨fun _ => rfl, fun _ => rfl⟩
  surroundings := ⟨rfl, rfl, rfl, rfl⟩

/-- Settles O30: a frame that fits passes the check of its variant. -/
theorem encodesStart : Obligations.EncodesStart := fun s hs =>
  ⟨fun hfit => ⟨_, exec_encP0_starts hs hfit, startedAs_startGo .enc .p0 s⟩,
    fun hpass => ⟨_, exec_encMp_starts hs hpass, startedAs_startGo .enc .mp s⟩⟩

/-- Settles O31: a buffer that is large enough passes the check of its variant. -/
theorem decodesStart : Obligations.DecodesStart := fun s hs =>
  ⟨fun h64 => ⟨_, exec_decP0_starts hs h64, startedAs_startGo .dec .p0 s⟩,
    fun hpos => ⟨_, exec_decMp_starts hs hpos, startedAs_startGo .dec .mp s⟩⟩

end Sys2Proof.Machine
end

section
/-! PROOFS. The statements on the system commands (spec/44_system_commands.md), then those of the core: what a
core step leaves alone, the end of every command, and a host read beside a core step (R200, R212 to R214). -/

namespace Sys2Proof.Machine

/-! ### The frame of a core step -/

/-- Between `s` and `t` SLOT, the operands, the latch, the surroundings and on an encode LENREG are the same:
what a core step leaves alone once its slot is counted (R213). -/
structure SlotFrame (s t : State) : Prop where
  slot : t.slot = s.slot
  operands : SameOperands s t
  surroundings : SameSurroundings s t
  lenreg : s.status.opl = .enc → t.lenreg = s.lenreg

theorem SlotFrame.refl (s : State) : SlotFrame s s :=
  ⟨rfl, ⟨rfl, rfl, rfl, rfl, rfl, rfl, rfl, rfl⟩, ⟨rfl, rfl, rfl, rfl⟩, fun _ => rfl⟩

theorem SameOperands.trans {s t u : State} (hst : SameOperands s t) (htu : SameOperands t u) :
    SameOperands s u := by
  unfold SameOperands at *
  simp_all

theorem SameSurroundings.trans {s t u : State} (hst : SameSurroundings s t) (htu : SameSurroundings t u) :
    SameSurroundings s u := by
  unfold SameSurroundings at *
  simp_all

theorem SlotFrame.trans {s t u : State} (hst : SlotFrame s t) (htu : SlotFrame t u) : SlotFrame s u where
  slot := htu.slot.trans hst.slot
  operands := hst.operands.trans htu.operands
  surroundings := hst.surroundings.trans htu.surroundings
  lenreg ho := by
    obtain ⟨-, -, -, -, -, hopl, -⟩ := hst.operands
    exact (htu.lenreg (hopl.trans ho)).trans (hst.lenreg ho)

/-- The end of a slot counts it and moves the cursor, whatever the slot did to SHREG and PIX. -/
theorem slotFrame_endSlot (s : State) (g : Byte) (m : Memory) :
    SlotFrame (nextSlot s) (endSlot { s with shreg := g, pix := m }).1 := by
  obtain ⟨r, c, h, p, he⟩ := endSlot_frame { s with shreg := g, pix := m }
  rw [he]
  exact { SlotFrame.refl (nextSlot s) with }

theorem slotFrame_raiseExhausted (s : State) : SlotFrame s (raiseExhausted s) := { SlotFrame.refl s with }

/-- A decode's delivery reaches LENREG, SHREG and PAY only (R113, R118). -/
theorem slotFrame_deliverBit {n : Nat} {b : Bool} {s t : State} (ho : s.status.opl = .dec)
    (h : deliverBit n b s = .ok t) : SlotFrame s t := by
  have hlen {l : XWord} (he : s.status.opl = .enc) : l = s.lenreg := by simp [ho] at he
  rcases deliverBit_cases h with ⟨-, rfl⟩ | ⟨-, -, rfl⟩ | ⟨-, -, -, rfl⟩ <;>
    exact { SlotFrame.refl s with lenreg := hlen }

/-- The decision after a slot reaches the flags, PHASE and RLEN only (R209 to R211). -/
theorem slotFrame_afterSlot (n : Nat) {s : State} (hp : s.status.phase ≠ .idle)
    (ho : s.status.opl = .enc ∨ s.status.opl = .dec) : SlotFrame s (afterSlot n s) := by
  rcases afterSlot_cases n hp ho with
    ⟨-, -, he⟩ | ⟨-, -, -, -, he⟩ | ⟨-, -, -, -, he⟩ | ⟨-, -, -, -, he⟩ | ⟨-, -, he⟩ | ⟨-, -, -, he⟩ |
    ⟨-, -, -, he⟩ <;> rw [he] <;> exact { SlotFrame.refl s with }

theorem phase_ne_idle_of_phaseMatchesSlot {s : State} (h : phaseMatchesSlot s = true) :
    s.status.phase ≠ .idle := fun hp => by simp [phaseMatchesSlot, hp] at h

/-- A core step counts its slot and leaves the rest of the frame, in every state (R212, R213). -/
theorem coreStep_slotFrame {s t : State} (h : coreStep s = .next t) : SlotFrame (nextSlot s) t := by
  obtain ⟨hm, ⟨ho, b, u, hc, -, rfl⟩ | ⟨ho, -, ⟨-, rfl⟩ | ⟨-, v, hd, rfl⟩⟩⟩ := coreStep_cases h
  · obtain ⟨g, rfl⟩ := chooseBit_frame hc
    have hend := slotFrame_endSlot s g (s.pix.write (slotAddress s) (slotByte b s))
    split
    · exact hend.trans (slotFrame_raiseExhausted _)
    · refine hend.trans (slotFrame_afterSlot _ ?_ ?_) <;> rw [endSlot_status]
      · exact phase_ne_idle_of_phaseMatchesSlot hm
      · exact .inl ho
  · exact (slotFrame_endSlot s s.shreg s.pix).trans (slotFrame_raiseExhausted _)
  · have hv := deliverBit_status hd
    rw [endSlot_status] at hv
    have hdeliver := slotFrame_deliverBit (by rw [endSlot_status]; exact ho) hd
    refine ((slotFrame_endSlot s s.shreg s.pix).trans hdeliver).trans (slotFrame_afterSlot _ ?_ ?_) <;>
      rw [hv]
    · exact phase_ne_idle_of_phaseMatchesSlot hm
    · exact .inr ho

/-- Settles O40: the frame of a core step, and SLOT does not wrap. -/
theorem coreStepCountsOneSlot : Obligations.CoreStepCountsOneSlot := by
  intro s t h hb ht
  obtain ⟨hslot, hops, hsur, hlen⟩ := coreStep_slotFrame ht
  exact ⟨hslot ▸ (h.running hb).slot_add (h.not_idle hb), hops, hsur, hlen⟩

/-! ### The end of a command -/

/-- A command in progress, left alone, on memories backed up to `F` (R73). -/
structure BackedRun (s : State) : Prop where
  inv : MachineInv s
  busy : s.status.busy = true
  undisturbed : Undisturbed s
  pix_backed : PixBacked s (flatLength s)
  pay_backed : PayBacked s (flatLength s)

/-- A core step on the same operands and parameters leaves a backed run, unless it ends the command. -/
theorem BackedRun.has_step {s : State} (h : BackedRun s) :
    ∃ t, step s = .next t ∧ s.slot.toNat < sweepSlots s ∧ t.slot.toNat = s.slot.toNat + 1 ∧
      sweepSlots t = sweepSlots s ∧ (t.status.busy = true → BackedRun t) := by
  obtain ⟨t, ht⟩ := backedCommandIsNeverStuck s h.inv h.busy h.pix_backed h.pay_backed
  obtain ⟨hslot, ⟨hheight, hwidth, hchannels, -⟩, ⟨hcfg, hturns, -⟩, -⟩ :=
    coreStepCountsOneSlot s t h.inv h.busy ht
  have hflat : flatLength t = flatLength s := by simp only [flatLength, hheight, hwidth, hchannels]
  refine ⟨t, ?_, (h.inv.running h.busy).slot_lt (h.inv.not_idle h.busy), hslot,
    by simp only [sweepSlots, hflat], fun hb => ?_⟩
  · rw [step_nothing_pending h.undisturbed, coreTurn_busy h.busy, ht]
  · exact ⟨coreStep_keeps h.inv h.busy ht, hb, hturns.trans h.undisturbed,
      by rw [PixBacked, hflat, hcfg]; exact h.pix_backed,
      by rw [PayBacked, hflat, hcfg]; exact h.pay_backed⟩

/-- A backed run ends within the slots left: each step counts one and stays in the sweep until it does. -/
theorem BackedRun.ends {s : State} (h : BackedRun s) :
    ∃ n t, n + s.slot.toNat ≤ sweepSlots s ∧ RunsTo n s t ∧ t.status.busy = false := by
  obtain ⟨t, ht, hlt, hslot, hsweep, hgo⟩ := h.has_step
  cases hb : t.status.busy with
  | false => exact ⟨1, t, by omega, .one ht, hb⟩
  | true =>
    obtain ⟨n, u, hn, hrun, hu⟩ := (hgo hb).ends
    exact ⟨n + 1, u, by omega, .head ht hrun, hu⟩
termination_by sweepSlots s - s.slot.toNat

/-- Settles O48, by recursion on the slots left in the sweep. -/
theorem everyCommandEnds : Obligations.EveryCommandEnds :=
  fun _ h hb hq hpix hpay => BackedRun.ends ⟨h, hb, hq, hpix, hpay⟩

/-! ### A core step does not see the host -/

/-- `s` beside other pending turns and with another value in the host's hands. -/
def beside (ts : List Turn) (v : XWord) (s : State) : State := { s with turns := ts, hostValue := v }

@[simp] theorem beside_status (ts : List Turn) (v : XWord) (s : State) :
    (beside ts v s).status = s.status := rfl

@[simp] theorem beside_lenreg (ts : List Turn) (v : XWord) (s : State) :
    (beside ts v s).lenreg = s.lenreg := rfl

@[simp] theorem headerRejected_beside (ts : List Turn) (v : XWord) (s : State) :
    headerRejected (beside ts v s) = headerRejected s := rfl

theorem chooseBit_beside (ts : List Turn) (v : XWord) {s t : State} {b : Bool}
    (h : chooseBit s = .ok (b, t)) : chooseBit (beside ts v s) = .ok (b, beside ts v t) := by
  by_cases hp : s.status.phase = .body
  · by_cases hj : bodyBit s.slot.toNat = 0
    · by_cases hk : bodyByte s.slot.toNat < s.cfg.paySize ∧ bodyByte s.slot.toNat < addressSpace
      · rw [chooseBit_body_first hp hj hk] at h
        cases h
        exact chooseBit_body_first (s := beside ts v s) hp hj hk
      · rw [chooseBit_body_unbacked hp hj hk] at h
        cases h
    · rw [chooseBit_body_later hp hj] at h
      cases h
      exact chooseBit_body_later (s := beside ts v s) hp hj
  · rw [chooseBit_header hp] at h
    cases h
    exact chooseBit_header (s := beside ts v s) hp

theorem endSlot_mp {s : State} (hv : s.status.varl = .mp) : endSlot s = advanceCursor (nextSlot s) := by
  simp only [endSlot, hv]

theorem advanceCursor_beside (ts : List Turn) (v : XWord) (s : State) :
    advanceCursor (beside ts v s) = (beside ts v (advanceCursor s).1, (advanceCursor s).2) := by
  unfold beside advanceCursor
  split_ifs <;> rfl

theorem endSlot_beside (ts : List Turn) (v : XWord) (s : State) :
    endSlot (beside ts v s) = (beside ts v (endSlot s).1, (endSlot s).2) := by
  cases hv : s.status.varl with
  | p0 => rw [endSlot_p0 hv, endSlot_p0 (s := beside ts v s) hv]; rfl
  | mp =>
    rw [endSlot_mp hv, endSlot_mp (s := beside ts v s) hv]
    exact advanceCursor_beside ts v (nextSlot s)

theorem deliverBit_beside (ts : List Turn) (v : XWord) {n : Nat} {b : Bool} {s t : State}
    (h : deliverBit n b s = .ok t) : deliverBit n b (beside ts v s) = .ok (beside ts v t) := by
  rcases deliverBit_cases h with ⟨hp, rfl⟩ | ⟨hp, hj, rfl⟩ | ⟨hp, hj, hk, rfl⟩
  · exact deliverBit_header (s := beside ts v s) hp
  · exact deliverBit_body_inside (s := beside ts v s) hp hj
  · exact deliverBit_body_last (s := beside ts v s) hp hj hk

theorem endOfHeader_beside (ts : List Turn) (v : XWord) (s : State) :
    endOfHeader (beside ts v s) = beside ts v (endOfHeader s) := by
  rw [endOfHeader, endOfHeader, beside_status, beside_lenreg, headerRejected_beside]
  cases s.status.opl with
  | none | cap => rfl
  | enc | dec => dsimp only; split <;> rfl

theorem endOfBody_beside (ts : List Turn) (v : XWord) (n : Nat) (s : State) :
    endOfBody n (beside ts v s) = beside ts v (endOfBody n s) := by
  rw [endOfBody, endOfBody, beside_status, beside_lenreg]
  split
  · cases s.status.opl <;> rfl
  · rfl

theorem afterSlot_beside (ts : List Turn) (v : XWord) (n : Nat) (s : State) :
    afterSlot n (beside ts v s) = beside ts v (afterSlot n s) := by
  rw [afterSlot, afterSlot, beside_status]
  split
  · split
    · exact endOfHeader_beside ts v s
    · rfl
  · exact endOfBody_beside ts v n s
  · rfl

theorem coreStep_enc {s : State} (hm : phaseMatchesSlot s = true) (ho : s.status.opl = .enc) :
    coreStep s = encodeStep s := by simp only [coreStep, hm, ho, if_true]

theorem coreStep_dec {s : State} (hm : phaseMatchesSlot s = true) (ho : s.status.opl = .dec) :
    coreStep s = decodeStep s := by simp only [coreStep, hm, ho, if_true]

/-- A core step leads to the same block whatever the host holds and has pending (R200). -/
theorem coreStep_beside (ts : List Turn) (v : XWord) {s t : State} (h : coreStep s = .next t) :
    coreStep (beside ts v s) = .next (beside ts v t) := by
  obtain ⟨hm, ⟨ho, b, u, hc, hk, rfl⟩ | ⟨ho, hk, ⟨he, rfl⟩ | ⟨he, w, hd, rfl⟩⟩⟩ := coreStep_cases h
  · have hend : endSlot (written b (beside ts v u)) = _ := endSlot_beside ts v (written b u)
    rw [coreStep_enc (s := beside ts v s) hm ho,
      encodeStep_chosen (t := beside ts v u) (chooseBit_beside ts v hc) hk, hend]
    split
    · rfl
    · exact congrArg Host.Outcome.next (afterSlot_beside ts v _ _)
  · have hend := endSlot_beside ts v s
    rw [coreStep_dec (s := beside ts v s) hm ho,
      decodeStep_exhausted (s := beside ts v s) hk (by rw [hend, he]), hend]
    rfl
  · have hend := endSlot_beside ts v s
    have hdeliver := deliverBit_beside ts v hd
    rw [coreStep_dec (s := beside ts v s) hm ho,
      decodeStep_delivered (s := beside ts v s) (t := beside ts v w) hk (by rw [hend, he])
        (by rw [hend]; exact hdeliver)]
    exact congrArg Host.Outcome.next (afterSlot_beside ts v _ w)

/-- A run of two steps passes one state. -/
theorem RunsTo.two_steps {s u : State} (h : RunsTo 2 s u) :
    ∃ t, step s = .next t ∧ step t = .next u := by
  obtain ⟨t, ht, h⟩ := h.cases
  obtain ⟨w, hw, h⟩ := h.cases
  exact ⟨t, ht, hw.trans h⟩

/-- Settles O49: the core step reads neither the turns nor the host's value, and the read leaves the block. -/
theorem readsAndCoreStepsCommute : Obligations.ReadsAndCoreStepsCommute := by
  intro s n rest t u hb ht hu
  obtain ⟨p, hread, hcore⟩ := ht.two_steps
  obtain ⟨q, hcore', hread'⟩ := hu.two_steps
  obtain rfl : beside (.core :: rest) (csrRead s n) s = p := Host.Outcome.next.inj hread
  replace hcore : coreStep (beside rest (csrRead s n) s) = .next t :=
    (coreTurn_busy (s := beside rest (csrRead s n) s) hb).symm.trans hcore
  replace hcore' : coreStep (beside (.access (.read n) :: rest) s.hostValue s) = .next q :=
    (coreTurn_busy (s := beside (.access (.read n) :: rest) s.hostValue s) hb).symm.trans hcore'
  have hsame := coreStep_beside rest (csrRead s n) hcore'
  obtain rfl : t = beside rest (csrRead s n) q := Host.Outcome.next.inj (hcore.symm.trans hsame)
  obtain ⟨-, hturns, -⟩ := (coreStep_slotFrame hcore').surroundings
  rw [step_turn (rest := rest) hturns] at hread'
  obtain rfl : beside rest (csrRead q n) q = u := Host.Outcome.next.inj hread'
  rfl

end Sys2Proof.Machine
end

section
/-! PROOFS. The statements on the exceptions (spec/60_exceptions.md): fault entry, a START that fails its check,
and what ends a fault. -/

namespace Sys2Proof.Machine

/-! ### Fault entry -/

/-- Settles O24: the frame of fault entry. -/
theorem faultEntryWritesTheRecord : Obligations.FaultEntryWritesTheRecord := faultTaken_raise

/-! ### A START that fails its check -/

/-- What a START that fails its check leaves, for either operation and variant: part 1 of R207 and fault entry. -/
theorem startRefused_raise (op : Operation) (var : Variant) (info : XWord) (s : State) :
    StartRefused op var info s (raise .capacityError info (startReset op var s)) where
  status := rfl
  cause := rfl
  finfo := rfl
  cursor := ⟨rfl, rfl, rfl, rfl⟩
  slot := rfl
  shreg := rfl
  lenreg := rfl
  rlen := rfl
  registers := by
    intro n hn
    unfold csrRead
    split <;> simp_all
  memories := ⟨fun _ => rfl, fun _ => rfl⟩
  surroundings := ⟨rfl, rfl, rfl, rfl⟩

/-- A START whose check fails takes the fault that the check names (R207). -/
theorem start_fails {op : Operation} {var : Variant} {s : State} {x : Cause} {info : XWord}
    (h : startCheck op var (startReset op var s) = some (x, info)) :
    start op var s = raise x info (startReset op var s) := by
  rcases start_cases op var s with ⟨y, i, hy, he⟩ | ⟨hgo, -⟩
  · cases h.symm.trans hy
    exact he
  · cases h.symm.trans hgo

/-- The port of a block that accepts commands refuses a START whose check fails (R95 (3), R231). -/
theorem commandPort_start_refused {op : Operation} {var : Variant} {s : State} {info : XWord}
    (hs : Accepting s) (h : startCheck op var (startReset op var s) = some (.capacityError, info)) :
    ∃ t, commandPort false (start op var) s = .next t ∧ StartRefused op var info s t := by
  refine ⟨_, commandPort_accepting hs, ?_⟩
  rw [start_fails h]
  exact startRefused_raise op var info s

/-- Settles O32: each of the four conditions fails the check of its command; DEC.MP raises 0, which is `F`. -/
theorem startFaultsWithCapacityError : Obligations.StartFaultsWithCapacityError := by
  refine fun s hs => ⟨fun hlong => ?_, fun hsmall => ?_, fun hlong => ?_, fun hempty => ?_⟩
  · exact commandPort_start_refused hs ((startCheck_encP0 _).trans (if_pos hlong))
  · exact commandPort_start_refused hs ((startCheck_decP0 _).trans (if_pos hsmall))
  · exact commandPort_start_refused hs ((startCheck_encMp _).trans (if_pos hlong))
  · rw [hempty]
    exact commandPort_start_refused hs ((startCheck_decMp _).trans (if_pos hempty))

/-! ### What ends a fault -/

/-- FAULT, CAUSE and FINFO are the same in both states (R27, R28). -/
def SameFaultRecord (s t : State) : Prop :=
  t.status.fault = s.status.fault ∧ t.cause = s.cause ∧ t.finfo = s.finfo

/-- The turns that may end a fault: CLR, at the command port or as a write to CMD, and a reset (R238). -/
def EndsFault (turn : Turn) : Prop :=
  turn = .access (.cmd 8) ∨ turn = .access (.write 1 8) ∨ ∃ pix pay, turn = .reset pix pay

theorem csrStore_sameFaultRecord (s : State) (n : Nat) (value : XWord) :
    SameFaultRecord s (csrStore s n value) := by
  unfold csrStore
  split <;> exact ⟨rfl, rfl, rfl⟩

/-- Every word but CLR's leaves a faulted block as it is: the port ignores it, and NOP does nothing (R95 (2)). -/
theorem hostAccess_cmd_faulted_of_ne_clr {c : XWord} (hc : c ≠ 8) {s : State} (hf : s.status.fault = true) :
    hostAccess (.cmd c) s = .next s := by
  by_cases h0 : c = 0
  · subst h0
    exact exec_nop s
  · exact hostAccess_cmd_faulted h0 hc hf

/-- A host access other than CLR keeps the record of a faulted block (R202, R238). -/
theorem hostAccess_keeps_faultRecord {w : HostWord} {s t : State} (hb : s.status.busy = false)
    (hf : s.status.fault = true) (ht : hostAccess w s = .next t) :
    SameFaultRecord s t ∨ w = .cmd 8 ∨ w = .write 1 8 := by
  have hcmd {c : XWord} (hc : c ≠ 8) (hu : hostAccess (.cmd c) s = .next t) : SameFaultRecord s t := by
    obtain rfl := Host.Outcome.next.inj ((hostAccess_cmd_faulted_of_ne_clr hc hf).symm.trans hu)
    exact ⟨rfl, rfl, rfl⟩
  cases w with
  | read n =>
    obtain rfl := Host.Outcome.next.inj ht
    exact .inl ⟨rfl, rfl, rfl⟩
  | cmd c =>
    by_cases hc : c = 8
    · exact .inr (.inl (hc ▸ rfl))
    · exact .inl (hcmd hc ht)
  | write n value =>
    by_cases hn : n = 1
    · subst hn
      by_cases hc : value = 8
      · exact .inr (.inr (hc ▸ rfl))
      · exact .inl (hcmd hc ((exec_csrw_cmd value s).symm.trans ht))
    · obtain rfl := Host.Outcome.next.inj ((exec_csrw_store hb hn value).symm.trans ht)
      exact .inl (csrStore_sameFaultRecord s n value)

/-- An access that answers `u` where the memory is backed, and nothing else, leads to `u` (R73). -/
theorem eq_of_backed_next {p : Prop} [Decidable p] {r : Fault} {t u : State}
    (h : (if p then .next u else .fault r : Host.Outcome State Fault Refusal) = .next t) : t = u := by
  split at h
  · exact (Host.Outcome.next.inj h).symm
  · cases h

theorem storePix_next {a : Nat} {bytes : List Byte} {s t : State}
    (h : hostMemory (storePix a bytes) s = .next t) : t = { s with pix := s.pix.writeBytes a bytes } :=
  eq_of_backed_next (hostMemory_next h).2

theorem storePay_next {a : Nat} {bytes : List Byte} {s t : State}
    (h : hostMemory (storePay a bytes) s = .next t) : t = { s with pay := s.pay.writeBytes a bytes } :=
  eq_of_backed_next (hostMemory_next h).2

theorem fetchPix_next {a count : Nat} {s t : State} (h : hostMemory (fetchPix a count) s = .next t) :
    t = { s with hostBytes := s.pix.readBytes a count } :=
  eq_of_backed_next (hostMemory_next h).2

theorem fetchPay_next {a count : Nat} {s t : State} (h : hostMemory (fetchPay a count) s = .next t) :
    t = { s with hostBytes := s.pay.readBytes a count } :=
  eq_of_backed_next (hostMemory_next h).2

/-- A poll of a block that is not busy is a read of STATUS (R100). -/
theorem waitPoll_idle {s : State} (hb : s.status.busy = false) :
    waitPoll s = { s with hostValue := csrRead s 2 } := by simp [waitPoll, hb]

/-- A turn that ends no fault keeps the record of a faulted block (R238, R239). -/
theorem takeTurn_keeps_faultRecord {turn : Turn} {s t : State} (hb : s.status.busy = false)
    (hf : s.status.fault = true) (ht : takeTurn turn s = .next t) :
    SameFaultRecord s t ∨ EndsFault turn := by
  cases turn with
  | access w =>
    rcases hostAccess_keeps_faultRecord hb hf ht with hsame | rfl | rfl
    · exact .inl hsame
    · exact .inr (.inl rfl)
    · exact .inr (.inr (.inl rfl))
  | core =>
    obtain rfl := Host.Outcome.next.inj ((coreTurn_idle hb).symm.trans ht)
    exact .inl ⟨rfl, rfl, rfl⟩
  | loadPix a bytes => exact .inl (storePix_next ht ▸ ⟨rfl, rfl, rfl⟩)
  | fillPix a count byte => exact .inl (storePix_next ht ▸ ⟨rfl, rfl, rfl⟩)
  | loadPay a bytes => exact .inl (storePay_next ht ▸ ⟨rfl, rfl, rfl⟩)
  | readPix a count => exact .inl (fetchPix_next ht ▸ ⟨rfl, rfl, rfl⟩)
  | readPay a count => exact .inl (fetchPay_next ht ▸ ⟨rfl, rfl, rfl⟩)
  | wait =>
    obtain rfl := Host.Outcome.next.inj ht
    rw [waitPoll_idle hb]
    exact .inl ⟨rfl, rfl, rfl⟩
  | reset pix pay => exact .inr (.inr (.inr ⟨pix, pay, rfl⟩))

/-- A faulted block is not busy (R26 (b)). -/
theorem MachineInv.not_busy_of_fault {s : State} (h : MachineInv s) (hf : s.status.fault = true) :
    s.status.busy = false := by
  simpa [hf] using h.status.not_busy_and_fault

/-- Settles O25: a faulted block is not busy, so no core step runs, and of the turns only CLR and reset end it. -/
theorem onlyClrAndResetEndAFault : Obligations.OnlyClrAndResetEndAFault := by
  intro s t h hf ht
  have hb := h.not_busy_of_fault hf
  cases hturns : s.turns with
  | nil =>
    have hpass : step s = .next s := (step_nothing_pending hturns).trans (coreTurn_idle hb)
    obtain rfl := Host.Outcome.next.inj (hpass.symm.trans ht)
    exact .inl ⟨hf, rfl, rfl⟩
  | cons turn rest =>
    rw [step_turn hturns] at ht
    rcases takeTurn_keeps_faultRecord (s := { s with turns := rest }) hb hf ht with
      ⟨hfault, hcause, hfinfo⟩ | rfl | rfl | ⟨pix, pay, rfl⟩
    · exact .inl ⟨hfault.trans hf, hcause, hfinfo⟩
    · exact .inr (.inl ⟨rest, rfl⟩)
    · exact .inr (.inr (.inl ⟨rest, rfl⟩))
    · exact .inr (.inr (.inr ⟨pix, pay, rest, rfl⟩))

end Sys2Proof.Machine
end

section
/-! PROOFS. The statements on reset (spec/70_reset_and_hazards.md). -/

namespace Sys2Proof.Machine

@[simp] theorem statusWord_reset : statusWord Status.reset = 0 := by decide

/-- At plane 0 the masks of PLANE are 0x01 and 0xFE (R35). -/
@[simp] theorem planeWord_zero : planeWord 0#3 = 0xFE0100 := by decide

/-- The reset table (R260), from any state and with any contents of the memories: ID and PLANE are the only
registers that do not read 0. -/
theorem csrRead_resetBlock (pix pay : List Host.Cell) (s : State) (n : Nat) :
    csrRead (resetBlock pix pay s) n =
      if n = 0 then 0x000100074C534250 else if n = 15 then 0xFE0100 else 0 := by
  by_cases hn : 18 ≤ n
  · rw [csrRead_reserved _ hn, if_neg (by omega), if_neg (by omega)]
  · interval_cases n <;> simp [csrRead, idValue, Cause.code]

/-- Settles O1: the reset state is what a reset with empty memories leaves of it, and it is not busy. -/
theorem resetReadsAsTheTable : Obligations.ResetReadsAsTheTable :=
  ⟨csrRead_resetBlock [] [] State.reset, rfl, rfl, rfl,
    (step_nothing_pending rfl).trans (coreTurn_idle rfl)⟩

/-- Settles O2: the step is `resetBlock`, which reads no field that a busy or a faulted block has changed. -/
theorem resetWorksFromAnyState : Obligations.ResetWorksFromAnyState := by
  intro s rest pix pay hturns
  exact ⟨resetBlock pix pay { s with turns := rest }, step_turn hturns, csrRead_resetBlock pix pay _,
    rfl, rfl, rfl, Memory.wf_ofCells pix, Memory.wf_ofCells pay, rfl, rfl⟩

end Sys2Proof.Machine
end
